-- ==== Sys2Proof/Word.lean ====
section
/-! DEFINITION. The word types of the block and bit-field extraction (spec/00_scope.md R9, R10). -/

namespace Sys2Proof

/-- A host-visible register or command word: 32 bits (R9). -/
abbrev Word := BitVec 32

/-- A bus byte, a buffer byte or a CRC value: 8 bits (R9). -/
abbrev Byte := BitVec 8

end Sys2Proof
end

