-- ==== Sys2Proof/Syntax.lean ====
section
/-! DEFINITION. The instructions: one constructor per row of spec/opcode_table.json
(spec/30_encoding.md R81 to R85, R89). A field that a row fixes to 0 is no argument. -/

namespace Sys2Proof

/-- One command word (30_encoding.md R81), its operands as the word's fields. -/
inductive Instr where
  /-- NOP (43_facade.md R193). -/
  | nop
  /-- RESET (43_facade.md R194). -/
  | reset
  /-- QUERY_CAPS (43_facade.md R195). -/
  | queryCaps
  /-- START_W: write-only request (43_facade.md R197). -/
  | startW (pec a10 : Bool) (addr : BitVec 10) (wlen : BitVec 8)
  /-- START_R: read-only request (43_facade.md R198). -/
  | startR (pec a10 : Bool) (addr : BitVec 10) (rlen : BitVec 8)
  /-- START_WR: write-then-read request (43_facade.md R199). -/
  | startWR (pec a10 : Bool) (addr : BitVec 10) (wlen rlen : BitVec 8)
  /-- CRC_UPDATE: fold one byte (40_checksum.md R113). -/
  | crcUpdate (prev data : Byte)
  /-- CRC_FINALIZE: fold a run of buffer bytes (40_checksum.md R114). -/
  | crcFinalize (init : Byte) (off len : BitVec 8)
  /-- CRC_VERIFY: check a run of buffer bytes (40_checksum.md R115). -/
  | crcVerify (expect : Byte) (off len : BitVec 8)
  /-- RESERVED_9: reserved opcode 0x9; the body is word[27:0] (30_encoding.md R89). -/
  | reserved9 (body : BitVec 28)
  /-- RESERVED_A_B: reserved opcodes 0xA and 0xB; the body is word[28:0] (30_encoding.md R89). -/
  | reservedAB (body : BitVec 29)
  /-- RESERVED_C_F: reserved opcodes 0xC to 0xF; the body is word[29:0] (30_encoding.md R89). -/
  | reservedCF (body : BitVec 30)
deriving DecidableEq, Repr

end Sys2Proof
end

