-- ==== Sys2Proof/WellFormed.lean ====
section
/-! DEFINITION. The well-formedness checks of spec/30_encoding.md R88: (a) to (d) on a command word,
and (d), the one check that the types of Instr do not enforce, on an instruction. -/

namespace Sys2Proof

/-- R88 (d) on the fields of a format S word: with A10 = 0 the bits ADDR[9:7] are 0. -/
def addrFits (a10 : Bool) (addr : BitVec 10) : Bool :=
  a10 || addr.extractLsb' 7 3 == 0#3

/-- The instruction passes R88 (d); checks (a), (b) and (c) concern bits that are no field of Instr. -/
def Instr.wf : Instr → Bool
  | .startW _ a10 addr _ => addrFits a10 addr
  | .startR _ a10 addr _ => addrFits a10 addr
  | .startWR _ a10 addr _ _ => addrFits a10 addr
  | .nop => true
  | .reset => true
  | .queryCaps => true
  | .crcUpdate _ _ => true
  | .crcFinalize _ _ _ => true
  | .crcVerify _ _ _ => true
  | .reserved9 _ => true
  | .reservedAB _ => true
  | .reservedCF _ => true

/-- The opcode field OP, bits [31:28] (R81). -/
def opField (w : Word) : BitVec 4 := w.extractLsb' 28 4

/-- R88 (a): every bit that the word's format marks reserved is 0 (R83 to R85). -/
def reservedBitsClear (w : Word) : Bool :=
  if (opField w).toNat ≤ 2 then w.extractLsb' 0 28 == 0#28
  else if (opField w).toNat ≤ 5 then true
  else if (opField w).toNat = 6 then w.extractLsb' 16 12 == 0#12
  else w.extractLsb' 24 4 == 0#4

/-- R88 (b): for START_W, RLEN = 0. -/
def startWReadLenZero (w : Word) : Bool :=
  opField w != 3#4 || w.extractLsb' 0 8 == 0#8

/-- R88 (c): for START_R, WLEN = 0. -/
def startRWriteLenZero (w : Word) : Bool :=
  opField w != 4#4 || w.extractLsb' 8 8 == 0#8

/-- R88 (d): for format S with A10 = 0, ADDR[9:7] = 0. -/
def startAddrFits (w : Word) : Bool :=
  !(decide (3 ≤ (opField w).toNat ∧ (opField w).toNat ≤ 5)) ||
    addrFits (w.getLsbD 26) (w.extractLsb' 16 10)

/-- A word whose OP is 0x0 to 0x8 is well-formed when it passes R88 (a) to (d); the reserved
opcodes 0x9 to 0xF are illegal whatever their body (R89). -/
def wordWellFormed (w : Word) : Bool :=
  decide ((opField w).toNat ≤ 8) && reservedBitsClear w && startWReadLenZero w &&
    startRWriteLenZero w && startAddrFits w

end Sys2Proof
end

