-- ==== Sys2Proof/Decode.lean ====
section
/-! DEFINITION. The decoder, total on every 32-bit word (spec/30_encoding.md R94), the encoder
written from the same format tables (R81 to R85), and the opcode table's rows. -/

namespace Sys2Proof

/-- Why a word is no instruction: the check of 30_encoding.md R88 that it fails. -/
inductive DecodeReject where
  /-- R88 (a): a bit that the format marks reserved is 1. -/
  | reservedBitsNonzero
  /-- R88 (b): START_W with RLEN ≠ 0. -/
  | startWReadLenNonzero
  /-- R88 (c): START_R with WLEN ≠ 0. -/
  | startRWriteLenNonzero
  /-- R88 (d): A10 = 0 with ADDR[9:7] ≠ 0. -/
  | addrTooWide
deriving DecidableEq, Repr

/-- PEC, word[27] of format S (R82). -/
def pecField (w : Word) : Bool := w.getLsbD 27

/-- A10, word[26] of format S (R82). -/
def a10Field (w : Word) : Bool := w.getLsbD 26

/-- ADDR, word[25:16] of format S (R82). -/
def addrField (w : Word) : BitVec 10 := w.extractLsb' 16 10

/-- Byte 1 of the word, [15:8]: WLEN (R82), PREV (R83) or OFF (R84). -/
def byte1Field (w : Word) : BitVec 8 := w.extractLsb' 8 8

/-- Byte 0 of the word, [7:0]: RLEN (R82), DATA (R83) or LEN (R84). -/
def byte0Field (w : Word) : BitVec 8 := w.extractLsb' 0 8

/-- INIT or EXPECT, word[23:16] of format B (R84). -/
def byte2Field (w : Word) : BitVec 8 := w.extractLsb' 16 8

/-- Format N: word[27:0] must be 0 (R85). -/
def decodeN (w : Word) (i : Instr) : Except DecodeReject Instr :=
  if w.extractLsb' 0 28 = 0#28 then .ok i else .error .reservedBitsNonzero

/-- START_W (R82, R88 (b), (d)). -/
def decodeStartW (w : Word) : Except DecodeReject Instr :=
  if byte0Field w ≠ 0#8 then .error .startWReadLenNonzero
  else if addrFits (a10Field w) (addrField w) then
    .ok (.startW (pecField w) (a10Field w) (addrField w) (byte1Field w))
  else .error .addrTooWide

/-- START_R (R82, R88 (c), (d)). -/
def decodeStartR (w : Word) : Except DecodeReject Instr :=
  if byte1Field w ≠ 0#8 then .error .startRWriteLenNonzero
  else if addrFits (a10Field w) (addrField w) then
    .ok (.startR (pecField w) (a10Field w) (addrField w) (byte0Field w))
  else .error .addrTooWide

/-- START_WR (R82, R88 (d)). -/
def decodeStartWR (w : Word) : Except DecodeReject Instr :=
  if addrFits (a10Field w) (addrField w) then
    .ok (.startWR (pecField w) (a10Field w) (addrField w) (byte1Field w) (byte0Field w))
  else .error .addrTooWide

/-- Format U: word[27:16] must be 0 (R83). -/
def decodeU (w : Word) : Except DecodeReject Instr :=
  if w.extractLsb' 16 12 = 0#12 then .ok (.crcUpdate (byte1Field w) (byte0Field w))
  else .error .reservedBitsNonzero

/-- Format B: word[27:24] must be 0 (R84). -/
def decodeB (w : Word) (i : Instr) : Except DecodeReject Instr :=
  if w.extractLsb' 24 4 = 0#4 then .ok i else .error .reservedBitsNonzero

/-- The decoder reads OP, then applies the checks of R88 (R94). A reserved opcode decodes to its
row of the opcode table, whose rule completes it as IllegalCommand (R89, 43_facade.md R203). -/
def decode (w : Word) : Except DecodeReject Instr :=
  if opField w = 0x0#4 then decodeN w .nop
  else if opField w = 0x1#4 then decodeN w .reset
  else if opField w = 0x2#4 then decodeN w .queryCaps
  else if opField w = 0x3#4 then decodeStartW w
  else if opField w = 0x4#4 then decodeStartR w
  else if opField w = 0x5#4 then decodeStartWR w
  else if opField w = 0x6#4 then decodeU w
  else if opField w = 0x7#4 then
    decodeB w (.crcFinalize (byte2Field w) (byte1Field w) (byte0Field w))
  else if opField w = 0x8#4 then
    decodeB w (.crcVerify (byte2Field w) (byte1Field w) (byte0Field w))
  else if opField w = 0x9#4 then .ok (.reserved9 (w.extractLsb' 0 28))
  else if w.extractLsb' 29 3 = 0b101#3 then .ok (.reservedAB (w.extractLsb' 0 29))
  else .ok (.reservedCF (w.extractLsb' 0 30))

/-- The command word of an instruction (R81 to R85): OP first, then the fields from the top. -/
def encode : Instr → Word
  | .nop => 0x0#4 ++ 0#28
  | .reset => 0x1#4 ++ 0#28
  | .queryCaps => 0x2#4 ++ 0#28
  | .startW pec a10 addr wlen =>
      0x3#4 ++ BitVec.ofBool pec ++ BitVec.ofBool a10 ++ addr ++ wlen ++ 0#8
  | .startR pec a10 addr rlen =>
      0x4#4 ++ BitVec.ofBool pec ++ BitVec.ofBool a10 ++ addr ++ 0#8 ++ rlen
  | .startWR pec a10 addr wlen rlen =>
      0x5#4 ++ BitVec.ofBool pec ++ BitVec.ofBool a10 ++ addr ++ wlen ++ rlen
  | .crcUpdate prev data => 0x6#4 ++ 0#12 ++ prev ++ data
  | .crcFinalize init off len => 0x7#4 ++ 0#4 ++ init ++ off ++ len
  | .crcVerify expect off len => 0x8#4 ++ 0#4 ++ expect ++ off ++ len
  | .reserved9 body => 0x9#4 ++ body
  | .reservedAB body => 0b101#3 ++ body
  | .reservedCF body => 0b11#2 ++ body

/-- One row of spec/opcode_table.json: the words w with w AND mask = pattern. -/
structure OpcodeRow where
  mnemonic : String
  mask : Word
  pattern : Word
deriving DecidableEq, Repr

/-- The word lies in the row. -/
def OpcodeRow.covers (r : OpcodeRow) (w : Word) : Bool := w &&& r.mask == r.pattern

/-- The row of spec/opcode_table.json that each instruction stands in. -/
def Instr.row : Instr → OpcodeRow
  | .nop => { mnemonic := "NOP", mask := 0xFFFFFFFF#32, pattern := 0x00000000#32 }
  | .reset => { mnemonic := "RESET", mask := 0xFFFFFFFF#32, pattern := 0x10000000#32 }
  | .queryCaps => { mnemonic := "QUERY_CAPS", mask := 0xFFFFFFFF#32, pattern := 0x20000000#32 }
  | .startW _ _ _ _ => { mnemonic := "START_W", mask := 0xF00000FF#32, pattern := 0x30000000#32 }
  | .startR _ _ _ _ => { mnemonic := "START_R", mask := 0xF000FF00#32, pattern := 0x40000000#32 }
  | .startWR _ _ _ _ _ => { mnemonic := "START_WR", mask := 0xF0000000#32, pattern := 0x50000000#32 }
  | .crcUpdate _ _ => { mnemonic := "CRC_UPDATE", mask := 0xFFFF0000#32, pattern := 0x60000000#32 }
  | .crcFinalize _ _ _ => { mnemonic := "CRC_FINALIZE", mask := 0xFF000000#32, pattern := 0x70000000#32 }
  | .crcVerify _ _ _ => { mnemonic := "CRC_VERIFY", mask := 0xFF000000#32, pattern := 0x80000000#32 }
  | .reserved9 _ => { mnemonic := "RESERVED_9", mask := 0xF0000000#32, pattern := 0x90000000#32 }
  | .reservedAB _ => { mnemonic := "RESERVED_A_B", mask := 0xE0000000#32, pattern := 0xA0000000#32 }
  | .reservedCF _ => { mnemonic := "RESERVED_C_F", mask := 0xC0000000#32, pattern := 0xC0000000#32 }

/-- The opcode table, in its own order. -/
def opcodeTable : List OpcodeRow :=
  [Instr.row .nop, Instr.row .reset, Instr.row .queryCaps, Instr.row (.startW false false 0 0),
   Instr.row (.startR false false 0 0), Instr.row (.startWR false false 0 0 0)] ++
  [Instr.row (.crcUpdate 0 0), Instr.row (.crcFinalize 0 0 0), Instr.row (.crcVerify 0 0 0),
   Instr.row (.reserved9 0), Instr.row (.reservedAB 0), Instr.row (.reservedCF 0)]

/-- What the decoder reads from an instruction whose bits are w, numbered as
spec/opcode_table.json numbers them; every command is one 32-bit word (R80). -/
def decodeTableWord (nbits w : Nat) : Option Instr :=
  if nbits ≤ 32 ∧ w < 2 ^ 32 then
    match decode (BitVec.ofNat 32 w) with
    | .ok i => some i
    | .error _ => none
  else none

end Sys2Proof
end

