-- ==== Sys2Proof/Config.lean ====
section
/-! DEFINITION. What an implementation fixes, and the free values of the model
(spec/00_scope.md R7, R8, R12; spec/93_implementation_defined.md). -/

namespace Sys2Proof

/-- The answer of the bus collaborator to one request (10_state.md R41). -/
inductive Response where
  | ok
  | noAck
  | timeout
deriving DecidableEq, Repr, Inhabited

/-- The two agents that move on their own (00_scope.md R16; 20_memory.md R71). -/
inductive Agent where
  | host
  | sequencer
deriving DecidableEq, Repr, Inhabited

/-- The implementation parameters of 00_scope.md R7 and HAS_PEC of R8. The state holds one such
record: it is what CAP_TX, CAP_RX, CAP_TOTAL, CAP_BUF and STATUS.PEC_IMPL show (log entry 2). -/
structure Params where
  /-- MAX_TX: largest write chunk, in data bytes. -/
  maxTx : Nat
  /-- MAX_RX: largest read chunk, in data bytes. -/
  maxRx : Nat
  /-- MAX_TOTAL: largest request, write and read data bytes together. -/
  maxTotal : Nat
  /-- BUF_CAP: transfer buffer capacity in bytes. -/
  bufCap : Nat
  /-- HAS_PEC: the CRC engine is implemented. -/
  hasPec : Bool
deriving DecidableEq, Repr

/-- The legal ranges of 00_scope.md R7. -/
def Params.legal (p : Params) : Bool :=
  decide (1 ≤ p.maxTx ∧ p.maxTx ≤ 255 ∧ 1 ≤ p.maxRx ∧ p.maxRx ≤ 255 ∧
    p.maxTotal ≤ min 510 p.bufCap ∧ 1 ≤ p.bufCap ∧ p.bufCap ≤ 256)

/-- The defaults of 00_scope.md R7 and R8: the values the source observed, and a working CRC. -/
def Config.defaultParams : Params :=
  { maxTx := 33, maxRx := 33, maxTotal := 66, bufCap := 256, hasPec := true }

/-- ID_STRING (00_scope.md R8, 10_state.md R48): open; no rule reads it (log entry 17). -/
opaque Config.idString : String

/-- POLL_LIMIT (00_scope.md R8, 60_exceptions.md R230): open; no rule reads it (log entry 17). -/
opaque Config.pollLimit : Nat

/-- RAW_STATUS_MAP (00_scope.md R8, 10_state.md R41): the collaborator's map from its raw hardware
status codes onto the response set; open (log entry 17). -/
opaque Config.rawStatusMap : Nat → Response

/-- Free value: the raw hardware status code of the collaborator's n-th drawn answer
(00_scope.md R12; log entry 6). -/
opaque Config.freeRawStatus : Nat → Nat

/-- Free value: the n-th drawn byte, received on the bus (93 I8) or read by the host from a buffer
byte whose value is unspecified (20_memory.md R65, 70_reset_and_hazards.md R251; log entries 5, 6). -/
opaque Config.freeByte : Nat → Byte

/-- Free value: the agent that moves at the n-th drawn choice, when both can
(20_memory.md R67; log entry 7). -/
opaque Config.freeTurn : Nat → Agent

end Sys2Proof
end

