-- ==== Sys2Proof/Machine/State.lean ====
section
/-! DEFINITION. The state of PECSEQ: every register, the buffer, the sequencer and its ports
(spec/10_state.md), the host agent (spec/30_encoding.md R93), and the value after power-on reset
(spec/70_reset_and_hazards.md R250). -/

namespace Sys2Proof.Machine

/-- STATUS.CODE: the seven values that are ever written (30_encoding.md R90, R91). -/
inductive Code where
  | success
  | deviceNotPresent
  | busTimeout
  | checksumMismatch
  | unsupportedLength
  | notImplemented
  | illegalCommand
deriving DecidableEq, Repr

/-- The buffer BUF: the written bytes, by index. An index that is not listed has its written bit
clear (70_reset_and_hazards.md R251; log entry 4). -/
abbrev Memory := List Host.Cell

/-- The direction of a chunk (10_state.md R37). -/
inductive Dir where
  | W
  | R
deriving DecidableEq, Repr

/-- A chunk (10_state.md R37). -/
structure Chunk where
  dir : Dir
  start : Nat
  len : Nat
  final : Bool
deriving DecidableEq, Repr

/-- The operation kind of a request (10_state.md R39). -/
inductive ReqOp where
  | W
  | R
  | WR
deriving DecidableEq, Repr

/-- The latched request seq.req (10_state.md R39). -/
structure Request where
  op : ReqOp
  pec : Bool
  a10 : Bool
  addr : BitVec 10
  wlen : BitVec 8
  rlen : BitVec 8
deriving DecidableEq, Repr

/-- The bus phase of the next micro-step (10_state.md R36, R38). -/
inductive Phase where
  | idle
  | addr
  | data
  | pec
  | stop
  | abortStop
deriving DecidableEq, Repr

/-- The failures a chunk can record in seq.fail (10_state.md R36). -/
inductive ChunkFail where
  | deviceNotPresent
  | busTimeout
  | checksumMismatch
deriving DecidableEq, Repr

/-- The sequencer-internal state (10_state.md R36). -/
structure Seq where
  phase : Phase
  req : Request
  chunks : List Chunk
  k : Nat
  i : Nat
  fail : Option ChunkFail
  tx : Nat
  rx : Nat
deriving DecidableEq, Repr

/-- A request on the downstream port (10_state.md R40). -/
inductive BusRequest where
  | startCycle (bytes : List Byte)
  | writeByte (b : Byte)
  | readByte (last : Bool)
  | stopCycle
  | busReset
deriving DecidableEq, Repr

/-- An answer of the collaborator: the response, and the byte that a readByte answered Ok carries
(10_state.md R41). A request other than readByte, and a response other than Ok, does not use the byte. -/
structure BusAnswer where
  resp : Response
  byte : Byte
deriving DecidableEq, Repr

/-- What the downstream port shows of one request: the request, the response to it (none for busReset,
R44) and the byte received (for a readByte answered Ok, R41). -/
structure BusEvent where
  request : BusRequest
  response : Option Response
  data : Option Byte
deriving DecidableEq, Repr

/-- A statement of a host program (30_encoding.md R93). Offsets have the port's 9 bits (10_state.md R20)
and widths are in bits; a target is a statement's index in the program (log entry 9). -/
inductive HostStmt where
  /-- A write of v's low `width` bits at an offset: W32 and W8 are the widths 32 and 8. -/
  | write (width : Nat) (off : BitVec 9) (v : Word)
  /-- A read into temporary t: R32 and R8 are the widths 32 and 8. -/
  | read (width : Nat) (off : BitVec 9) (t : Nat)
  | goto (target : Nat)
  /-- if t[hi:lo] = v goto target. -/
  | ifEq (t hi lo v target : Nat)
  /-- if t[hi:lo] ≠ v goto target. -/
  | ifNe (t hi lo v target : Nat)
  | halt
deriving DecidableEq, Repr

/-- The host agent: its program, the index of its next statement, and its temporaries in the form of a
Memory: strictly rising numbers, those not listed never written (30_encoding.md R93; log entry 9). -/
structure HostAgent where
  prog : List HostStmt
  pc : Nat
  temps : List (Nat × Word)
deriving DecidableEq, Repr

/-- The state of the machine. -/
structure State where
  /-- CMD (10_state.md R21). -/
  cmd : Word
  /-- STATUS.CODE (R22). -/
  code : Code
  /-- STATUS.BUSY (R22). -/
  busy : Bool
  /-- STATUS.OVR (R22). -/
  ovr : Bool
  /-- XFER_COUNT (R23). -/
  xferCount : BitVec 16
  /-- RX_COUNT (R23). -/
  rxCount : BitVec 16
  /-- RESULT (R25). -/
  result : Byte
  /-- The CRC accumulator, read as PEC_ACC (R26, R30). -/
  acc : Byte
  /-- CAP_TX, CAP_RX, CAP_TOTAL, CAP_BUF (R27) and STATUS.PEC_IMPL (R22). -/
  caps : Params
  /-- BUF (R33). -/
  buf : Memory
  /-- The sequencer (R36). -/
  seq : Seq
  /-- The downstream port: every request issued since reset, oldest first (R40; log entry 11). -/
  busLog : List BusEvent
  /-- The model's own: the collaborator's coming answers, as far as they are given (log entry 6). -/
  answers : List BusAnswer
  /-- The model's own: who moves when both agents can, as far as it is given (log entry 7). -/
  schedule : List Agent
  /-- The model's own: how many free values have been drawn (log entries 5, 6, 7). -/
  draws : Nat
  /-- The power-on reset input: the next step applies it (70_reset_and_hazards.md R252; log entry 12). -/
  powerOn : Bool
  /-- The host agent (00_scope.md R16). -/
  host : HostAgent
deriving DecidableEq, Repr

/-- Why a step stops. The first two are the model faults of 60_exceptions.md R237. -/
inductive Fault where
  /-- Raised by a host access that is neither a 32-bit aligned register access nor an 8-bit BUF access
  (20_memory.md R63). Safe: the spec makes it a fault of the model. -/
  | hostAccessError (off : BitVec 9) (width : Nat)
  /-- Raised by a sequencer or CRC-command read of a BUF byte that nothing has written
  (70_reset_and_hazards.md R251). Safe: the spec makes it a fault of the model. -/
  | unwrittenRead (i : Nat)
  /-- Raised by a sequencer or CRC-command access at an index that is no BUF index (20_memory.md R62).
  Safe: no state that meets the model's invariant raises it (log entry 13). -/
  | bufIndexOutOfRange (i : Nat)
  /-- Raised by a micro-step whose chunk index is past the chunk list (10_state.md R36 bounds it).
  Safe: no state that meets the model's invariant raises it (log entry 13). -/
  | noCurrentChunk
deriving DecidableEq, Repr

/-- Why an instruction has no meaning. -/
inductive Refusal where
  /-- Raised by an arm of exec whose instruction has no meaning yet; no arm is one. Safe. -/
  | notModelled (mnemonic : String)
deriving DecidableEq, Repr

/-- The sequencer after power-on reset: phase Idle (R250); the other fields are don't-care in the spec
and hold values the model names (DESIGN CHOICE, log entry 3). -/
def Seq.reset : Seq :=
  { phase := .idle
    req := { op := .W, pec := false, a10 := false, addr := 0#10, wlen := 0#8, rlen := 0#8 }
    chunks := [], k := 0, i := 0, fail := none, tx := 0, rx := 0 }

/-- The state right after power-on reset of a block built with parameters p
(70_reset_and_hazards.md R250), with no host program and nothing given of the environment
(log entry 18). -/
def State.resetWith (p : Params) : State :=
  { cmd := 0#32, code := .success, busy := false, ovr := false, xferCount := 0#16, rxCount := 0#16
    result := 0#8, acc := 0#8, caps := p, buf := [], seq := Seq.reset
    busLog := [], answers := [], schedule := [], draws := 0, powerOn := false
    host := { prog := [], pc := 0, temps := [] } }

/-- The state right after power-on reset, with the default parameters of 00_scope.md R7, R8. -/
def State.reset : State := State.resetWith Config.defaultParams

end Sys2Proof.Machine
end

