-- ==== Sys2Proof/Machine/Ops.lean ====
section
/-! DEFINITION. The shared operations over the state: BUF reads and writes (spec/20_memory.md R62),
the field updates, raising an outcome (spec/00_scope.md R13), the downstream port
(spec/10_state.md R40, R41), the free values, and power-on reset (spec/70_reset_and_hazards.md R250).
The block takes no exception and returns from none (spec/60_exceptions.md R220, R227): raising an
outcome is the one operation that ends a command with a failure. -/

namespace Sys2Proof.Machine

/-! ## Maps in canonical form: a list of keys strictly rising, a key listed once -/

/-- The value at key a; none when the key is not listed. -/
def cellRead {α : Type} : List (Nat × α) → Nat → Option α
  | [], _ => none
  | (k, v) :: rest, a => if k = a then some v else cellRead rest a

/-- Writes v at key a and keeps the keys strictly rising. -/
def cellWrite {α : Type} : List (Nat × α) → Nat → α → List (Nat × α)
  | [], a, v => [(a, v)]
  | (k, w) :: rest, a, v =>
    if a < k then (a, v) :: (k, w) :: rest
    else if a = k then (a, v) :: rest
    else (k, w) :: cellWrite rest a v

/-- The keys rise strictly. -/
def cellsRising {α : Type} : List (Nat × α) → Bool
  | [] => true
  | [_] => true
  | (a, _) :: (b, w) :: rest => decide (a < b) && cellsRising ((b, w) :: rest)

/-- The byte at index a of BUF: none while its written bit is clear (70_reset_and_hazards.md R251). -/
def Memory.read (m : Memory) (a : Nat) : Option Byte := cellRead m a

/-- Stores a byte and sets its written bit (R251). -/
def Memory.write (m : Memory) (a : Nat) (b : Byte) : Memory := cellWrite m a b

/-- The canonical form of BUF: indices strictly rising. An unlisted index has no value, so no entry
can equal what an unlisted index reads as (log entry 4). -/
def Memory.wf (m : Memory) : Bool := cellsRising m

/-! ## Field updates -/

/-- x[CMD] <- w. -/
def State.setCmd (s : State) (w : Word) : State := { s with cmd := w }

/-- x[STATUS].BUSY <- b. -/
def State.setBusy (s : State) (b : Bool) : State := { s with busy := b }

/-- x[STATUS].OVR <- b. -/
def State.setOvr (s : State) (b : Bool) : State := { s with ovr := b }

/-- x[XFER_COUNT] <- x and x[RX_COUNT] <- r, each in its 16 bits (10_state.md R23; log entry 14). -/
def State.setCounts (s : State) (x r : Nat) : State :=
  { s with xferCount := BitVec.ofNat 16 x, rxCount := BitVec.ofNat 16 r }

/-- x[RESULT] <- zext_32(v) (10_state.md R25). -/
def State.setResult (s : State) (v : Byte) : State := { s with result := v }

/-- acc <- v (10_state.md R30). -/
def State.setAcc (s : State) (v : Byte) : State := { s with acc := v }

/-- Replaces the sequencer-internal state. -/
def State.setSeq (s : State) (q : Seq) : State := { s with seq := q }

/-- Replaces the buffer. -/
def State.setBuf (s : State) (m : Memory) : State := { s with buf := m }

/-- The host's next statement is the one at index n. -/
def State.setHostPc (s : State) (n : Nat) : State := { s with host := { s.host with pc := n } }

/-- Writes temporary t of the host (30_encoding.md R93). -/
def State.setTemp (s : State) (t : Nat) (v : Word) : State :=
  { s with host := { s.host with temps := cellWrite s.host.temps t v } }

/-- Temporary t of the host; one that nothing has written reads 0 (DESIGN CHOICE, log entry 9). -/
def State.temp (s : State) (t : Nat) : Word := (cellRead s.host.temps t).getD 0#32

/-- raise Outcome(code): writes STATUS.CODE; no trap and no change of control
(00_scope.md R13; 60_exceptions.md R220, R226). The counts are written by the rule that calls it. -/
def State.raiseOutcome (s : State) (c : Code) : State := { s with code := c }

/-! ## BUF accesses of the sequencer and the CRC commands -/

/-- MemRead(i, 1) (00_scope.md R11, 20_memory.md R62, 70_reset_and_hazards.md R251). -/
def State.memRead (s : State) (i : Nat) : Except Fault Byte :=
  if i < s.caps.bufCap then
    match s.buf.read i with
    | some b => .ok b
    | none => .error (.unwrittenRead i)
  else .error (.bufIndexOutOfRange i)

/-- MemWrite(i, 1, b) (00_scope.md R11, 20_memory.md R62). -/
def State.memWrite (s : State) (i : Nat) (b : Byte) : Except Fault State :=
  if i < s.caps.bufCap then .ok (s.setBuf (s.buf.write i b))
  else .error (.bufIndexOutOfRange i)

/-- The bytes BUF[off], ..., BUF[off + n - 1]; the first that cannot be read faults. -/
def State.memReadRun (s : State) (off : Nat) : Nat → Except Fault (List Byte)
  | 0 => .ok []
  | n + 1 =>
    match s.memRead off with
    | .error f => .error f
    | .ok b =>
      match s.memReadRun (off + 1) n with
      | .error f => .error f
      | .ok bs => .ok (b :: bs)

/-! ## The downstream port and the free values -/

/-- The collaborator's next answer: the given one, or else a draw: any response, through RAW_STATUS_MAP,
and any byte (00_scope.md R12, 60_exceptions.md R232; log entry 6). -/
def State.nextAnswer (s : State) : BusAnswer :=
  match s.answers with
  | a :: _ => a
  | [] =>
    { resp := Config.rawStatusMap (Config.freeRawStatus s.draws), byte := Config.freeByte s.draws }

/-- The state once that answer has been taken. -/
def State.takeAnswer (s : State) : State :=
  match s.answers with
  | _ :: rest => { s with answers := rest }
  | [] => { s with draws := s.draws + 1 }

/-- What the downstream port shows of a request answered by a (10_state.md R40, R41): a byte is
received exactly when a readByte is answered Ok. -/
def answered (q : BusRequest) (a : BusAnswer) : BusEvent :=
  { request := q
    response := some a.resp
    data :=
      match q, a.resp with
      | .readByte _, .ok => some a.byte
      | _, _ => none }

/-- Issues one answered request. -/
def State.issue (s : State) (q : BusRequest) (a : BusAnswer) : State :=
  { s with busLog := s.busLog ++ [answered q a] }

/-- Bus.busReset(): issued, no answer awaited (10_state.md R44). -/
def State.issueBusReset (s : State) : State :=
  { s with busLog := s.busLog ++ [{ request := .busReset, response := none, data := none }] }

/-- A free byte, for a host read of unspecified BUF contents (20_memory.md R65,
70_reset_and_hazards.md R251; log entry 5). -/
def State.drawnByte (s : State) : Byte := Config.freeByte s.draws

/-- The state once one free value has been drawn. -/
def State.afterDraw (s : State) : State := { s with draws := s.draws + 1 }

/-! ## Power-on reset -/

/-- Power-on reset of the block (70_reset_and_hazards.md R250, R252): every piece of the block's state
takes its R250 value, the request in progress has no outcome, no busReset is issued, and the
capabilities stay. The host, the collaborator and what the downstream port has seen are not the
block's and stay (log entry 12). -/
def State.powerOnReset (s : State) : State :=
  { State.resetWith s.caps with
    busLog := s.busLog, answers := s.answers, schedule := s.schedule, draws := s.draws
    host := s.host }

end Sys2Proof.Machine
end

