-- ==== Sys2Proof/Machine/Operands.lean ====
section
/-! DEFINITION. The operands of the commands: the address-phase bytes of format S
(spec/30_encoding.md R86), its lengths, and the buffer run of format B (R84, R87). -/

namespace Sys2Proof.Machine

/-- The R/W bit of a chunk's direction: 0 = write, 1 = read (30_encoding.md R86). -/
def Dir.rw : Dir → BitVec 1
  | .W => 0#1
  | .R => 1#1

/-- addrBytes(addr, a10, rw) (30_encoding.md R86): one byte A6..A0, R/W for a 7-bit address; 0b11110, A9,
A8, R/W and then A7..A0 for a 10-bit address. -/
def addrBytes (addr : BitVec 10) (a10 : Bool) (rw : BitVec 1) : List Byte :=
  if a10 then [0b11110#5 ++ addr.extractLsb' 8 2 ++ rw, addr.extractLsb' 0 8]
  else [addr.extractLsb' 0 7 ++ rw]

/-- The total length WLEN + RLEN of a request, unbounded (30_encoding.md R82, R87). -/
def totalLen (wlen rlen : BitVec 8) : Nat := wlen.toNat + rlen.toNat

/-- The run OFF, LEN of a CRC command lies inside BUF (40_checksum.md R114, R115). -/
def State.runFits (s : State) (off len : BitVec 8) : Bool :=
  decide (off.toNat + len.toNat ≤ s.caps.bufCap)

/-- The bytes of the run OFF, LEN (40_checksum.md R114, R115). -/
def State.runBytes (s : State) (off len : BitVec 8) : Except Fault (List Byte) :=
  s.memReadRun off.toNat len.toNat

end Sys2Proof.Machine
end

