-- ==== Sys2Proof/Machine/Checksum.lean ====
section
/-! DEFINITION. The packet checksum engine: the CRC-8 function and the three CRC commands
(spec/40_checksum.md R110 to R115; spec/00_scope.md R14). -/

namespace Sys2Proof.Machine

/-- One of the eight rounds of crc8_update (40_checksum.md R110): a left shift by one, reduced by 0x07
when bit 7 falls out. -/
def crcRound (c : Byte) : Byte :=
  if c.getLsbD 7 then (c <<< 1) ^^^ 0x07#8 else c <<< 1

/-- n rounds. -/
def crcRounds : Nat → Byte → Byte
  | 0, c => c
  | n + 1, c => crcRounds n (crcRound c)

/-- crc8_update(prev, data) (40_checksum.md R110). -/
def crc8Update (prev data : Byte) : Byte := crcRounds 8 (prev ^^^ data)

/-- crc8(init, L): folds the bytes of L from left to right (00_scope.md R14, 40_checksum.md R112). -/
def crc8 (init : Byte) : List Byte → Byte
  | [] => init
  | b :: rest => crc8 (crc8Update init b) rest

/-- What CRC_FINALIZE and CRC_VERIFY share (40_checksum.md R114, R115): the length check, the check of
the engine (60_exceptions.md R224), the fold from `init`, and the outcome `judge` gives for the
checksum. -/
def crcRun (init : Byte) (off len : BitVec 8) (judge : Byte → Code) (s : State) :
    Host.Outcome State Fault Refusal :=
  if s.runFits off len = false then .next (s.raiseOutcome .unsupportedLength)
  else if s.caps.hasPec = false then .next (s.raiseOutcome .notImplemented)
  else
    match s.runBytes off len with
    | .error f => .fault f
    | .ok bs => .next ((s.setResult (crc8 init bs)).raiseOutcome (judge (crc8 init bs)))

/-- CRC_UPDATE (40_checksum.md R113). -/
def execCrcUpdate (prev data : Byte) (s : State) : Host.Outcome State Fault Refusal :=
  if s.caps.hasPec = false then .next (s.raiseOutcome .notImplemented)
  else .next ((s.setResult (crc8Update prev data)).raiseOutcome .success)

/-- CRC_FINALIZE (40_checksum.md R114). -/
def execCrcFinalize (init : Byte) (off len : BitVec 8) (s : State) :
    Host.Outcome State Fault Refusal :=
  crcRun init off len (fun _ => .success) s

/-- CRC_VERIFY (40_checksum.md R115): the fold starts at 0x00. -/
def execCrcVerify (expect : Byte) (off len : BitVec 8) (s : State) :
    Host.Outcome State Fault Refusal :=
  crcRun 0x00#8 off len (fun c => if c = expect then .success else .checksumMismatch) s

end Sys2Proof.Machine
end

