-- ==== Sys2Proof/Machine/Flags.lean ====
section
/-! DEFINITION. The status fields: the numbers of STATUS.CODE (spec/30_encoding.md R90), the STATUS
register as the host reads it (spec/10_state.md R22), and the map from failures to codes
(spec/42_transaction_driver.md R161). -/

namespace Sys2Proof.Machine

/-- The number of a status code (30_encoding.md R90). -/
def Code.bits : Code → BitVec 4
  | .success => 0#4
  | .deviceNotPresent => 1#4
  | .busTimeout => 2#4
  | .checksumMismatch => 3#4
  | .unsupportedLength => 4#4
  | .notImplemented => 5#4
  | .illegalCommand => 6#4

/-- The outcome that a chunk's failure becomes (42_transaction_driver.md R172, 43_facade.md R200). -/
def ChunkFail.code : ChunkFail → Code
  | .deviceNotPresent => .deviceNotPresent
  | .busTimeout => .busTimeout
  | .checksumMismatch => .checksumMismatch

/-- The failure that a response other than Ok turns into (42_transaction_driver.md R161). -/
def failOf : Response → Option ChunkFail
  | .ok => none
  | .noAck => some .deviceNotPresent
  | .timeout => some .busTimeout

/-- STATUS as a 32-bit read (10_state.md R22): CODE in [3:0], BUSY in [8], OVR in [9], PEC_IMPL in [16],
every other bit 0. -/
def State.statusWord (s : State) : Word :=
  0#15 ++ BitVec.ofBool s.caps.hasPec ++ 0#6 ++ BitVec.ofBool s.ovr ++ BitVec.ofBool s.busy ++
    0#4 ++ s.code.bits

end Sys2Proof.Machine
end

