-- ==== Sys2Proof/Machine/Segmenter.lean ====
section
/-! DEFINITION. The transfer segmenter (spec/41_segmenter.md R140). -/

namespace Sys2Proof.Machine

/-- One while loop of chunkPlan (R140): full chunks of `limit` bytes first, the remainder last. The fuel
is the number of bytes, which is enough since every chunk takes at least one when limit ≥ 1
(00_scope.md R7; log entry 19). -/
def splitPart (dir : Dir) (limit : Nat) : (fuel start n : Nat) → List Chunk
  | 0, _, _ => []
  | fuel + 1, start, n =>
    if n = 0 then []
    else
      { dir := dir, start := start, len := min n limit, final := false } ::
        splitPart dir limit fuel (start + min n limit) (n - min n limit)

/-- Marks the last chunk of the list final (R140). -/
def markFinal : List Chunk → List Chunk
  | [] => []
  | [c] => [{ c with final := true }]
  | c :: d :: rest => c :: markFinal (d :: rest)

/-- chunkPlan(wlen, rlen): every write chunk, then every read chunk (R140). -/
def chunkPlan (p : Params) (wlen rlen : Nat) : List Chunk :=
  markFinal (splitPart .W p.maxTx wlen 0 wlen ++ splitPart .R p.maxRx rlen wlen rlen)

end Sys2Proof.Machine
end

