-- ==== Sys2Proof/Machine/Driver.lean ====
section
/-! DEFINITION. The transaction driver: the sequencer's micro-steps (spec/42_transaction_driver.md
R160 to R172) and request completion (spec/43_facade.md R201). Each micro-step takes the
collaborator's answer to its one request as an argument. -/

namespace Sys2Proof.Machine

/-- The current chunk c = seq.chunks[seq.k]. -/
def State.currentChunk (s : State) : Option Chunk := s.seq.chunks[s.seq.k]?

/-- acc <- crc8_update folded over bs when the request's PEC bit is 1 (42_transaction_driver.md R164). -/
def State.fold (s : State) (bs : List Byte) : State :=
  if s.seq.req.pec then s.setAcc (crc8 s.acc bs) else s

/-- seq.fail <- failOf(r) ; seq.phase <- AbortStop (R163, R166 to R169). -/
def State.abort (s : State) (r : Response) : State :=
  s.setSeq { s.seq with fail := failOf r, phase := .abortStop }

/-- seq.i <- seq.i + 1, and after the chunk's last byte seq.phase <- Pec or Stop (R166, R167). -/
def State.nextByte (s : State) (c : Chunk) : State :=
  s.setSeq { s.seq with
    i := s.seq.i + 1
    phase :=
      if s.seq.i + 1 = c.len then (if s.seq.req.pec then .pec else .stop) else s.seq.phase }

/-- complete(st, dir) (43_facade.md R201). -/
def State.complete (s : State) (st : Code) (dir : Dir) : State :=
  let counted :=
    match st, dir with
    | .success, _ => s.setCounts (s.seq.tx + s.seq.rx) s.seq.rx
    | _, .W => s.setCounts 0 0
    | _, .R => s.setCounts (s.seq.tx + s.seq.rx) s.seq.rx
  ((counted.raiseOutcome st).setBusy false).setSeq { s.seq with phase := .idle }

/-- Counts a completed chunk: seq.tx or seq.rx grows by c.len (42_transaction_driver.md R172). -/
def State.countChunk (s : State) (c : Chunk) : State :=
  match c.dir with
  | .W => s.setSeq { s.seq with tx := s.seq.tx + c.len }
  | .R => s.setSeq { s.seq with rx := s.seq.rx + c.len }

/-- Goes on to the next chunk's address phase (42_transaction_driver.md R172). -/
def State.nextChunk (s : State) : State :=
  s.setSeq { s.seq with k := s.seq.k + 1, i := 0, fail := none, phase := .addr }

/-- endOfChunk() (42_transaction_driver.md R172). -/
def State.endOfChunk (s : State) (c : Chunk) : State :=
  match s.seq.fail with
  | none =>
    if c.final then (s.countChunk c).complete .success c.dir else (s.countChunk c).nextChunk
  | some .checksumMismatch =>
    (s.setSeq { s.seq with rx := s.seq.rx + c.len }).complete .checksumMismatch .R
  | some f => s.complete f.code c.dir

/-- Addr phase (42_transaction_driver.md R163, R165). -/
def addrPhase (c : Chunk) (a : BusAnswer) (s : State) : State :=
  let ab := addrBytes s.seq.req.addr s.seq.req.a10 c.dir.rw
  let s := s.issue (.startCycle ab) a
  match a.resp with
  | .ok => (s.fold ab).setSeq { s.seq with i := 0, phase := .data }
  | r => s.abort r

/-- Data phase of a write chunk (42_transaction_driver.md R166). -/
def dataWritePhase (c : Chunk) (a : BusAnswer) (s : State) : Host.Outcome State Fault Refusal :=
  match s.memRead (c.start + s.seq.i) with
  | .error f => .fault f
  | .ok b =>
    let s := s.issue (.writeByte b) a
    match a.resp with
    | .ok => .next ((s.fold [b]).nextByte c)
    | r => .next (s.abort r)

/-- The flag `last` of a data read (42_transaction_driver.md R167, 10_state.md R43). -/
def State.lastDataRead (s : State) (c : Chunk) : Bool :=
  decide (s.seq.i + 1 = c.len) && !s.seq.req.pec

/-- Data phase of a read chunk (42_transaction_driver.md R167). -/
def dataReadPhase (c : Chunk) (a : BusAnswer) (s : State) : Host.Outcome State Fault Refusal :=
  let s := s.issue (.readByte (s.lastDataRead c)) a
  match a.resp with
  | .ok =>
    match s.memWrite (c.start + s.seq.i) a.byte with
    | .error f => .fault f
    | .ok s => .next ((s.fold [a.byte]).nextByte c)
  | r => .next (s.abort r)

/-- Pec phase of a write chunk: acc is sent and not folded (42_transaction_driver.md R168). -/
def pecWritePhase (a : BusAnswer) (s : State) : State :=
  let s := s.issue (.writeByte s.acc) a
  match a.resp with
  | .ok => s.setSeq { s.seq with phase := .stop }
  | r => s.abort r

/-- Pec phase of a read chunk: the byte received is compared with acc, neither stored nor folded
(42_transaction_driver.md R169). -/
def pecReadPhase (a : BusAnswer) (s : State) : State :=
  let s := s.issue (.readByte true) a
  match a.resp with
  | .ok =>
    s.setSeq { s.seq with
      fail := if a.byte = s.acc then s.seq.fail else some .checksumMismatch
      phase := .stop }
  | r => s.abort r

/-- Stop phase (42_transaction_driver.md R170): a failed stop does not replace an earlier failure. -/
def stopPhase (c : Chunk) (a : BusAnswer) (s : State) : State :=
  let s := s.issue .stopCycle a
  let fail :=
    match s.seq.fail with
    | none => failOf a.resp
    | some f => some f
  (s.setSeq { s.seq with fail := fail }).endOfChunk c

/-- AbortStop phase: the response is ignored (42_transaction_driver.md R171). -/
def abortStopPhase (c : Chunk) (a : BusAnswer) (s : State) : State :=
  (s.issue .stopCycle a).endOfChunk c

/-- The micro-step of the current phase, answered by a (42_transaction_driver.md R160). -/
def microStep (a : BusAnswer) (s : State) : Host.Outcome State Fault Refusal :=
  match s.currentChunk with
  | none => .fault .noCurrentChunk
  | some c =>
    match s.seq.phase, c.dir with
    | .idle, _ => .next s
    | .addr, _ => .next (addrPhase c a s)
    | .data, .W => dataWritePhase c a s
    | .data, .R => dataReadPhase c a s
    | .pec, .W => .next (pecWritePhase a s)
    | .pec, .R => .next (pecReadPhase a s)
    | .stop, _ => .next (stopPhase c a s)
    | .abortStop, _ => .next (abortStopPhase c a s)

/-- The sequencer has a micro-step to take: BUSY = 1 and the phase is not Idle (R160). -/
def State.sequencerEnabled (s : State) : Bool := s.busy && s.seq.phase != .idle

/-- One step of the sequencer: the micro-step, with the collaborator's next answer (R160). -/
def sequencerStep (s : State) : Host.Outcome State Fault Refusal :=
  microStep s.nextAnswer s.takeAnswer

end Sys2Proof.Machine
end

