-- ==== Sys2Proof/Machine/Facade.lean ====
section
/-! DEFINITION. The host-controller facade: NOP, RESET, QUERY_CAPS, the START commands and the illegal
words (spec/43_facade.md R193 to R199, R203). What acceptance adds, CMD <- w and OVR <- 0 (R191), is in
HostPort.lean. -/

namespace Sys2Proof.Machine

/-- IllegalCommand: only STATUS.CODE changes (43_facade.md R203). -/
def illegalCommand (s : State) : Host.Outcome State Fault Refusal :=
  .next (s.raiseOutcome .illegalCommand)

/-- A START refused by a check: counts 0, the outcome, no bus activity, acc unchanged
(43_facade.md R196). -/
def State.refuseStart (s : State) (c : Code) : State := (s.setCounts 0 0).raiseOutcome c

/-- The state in which an accepted START has latched its request (43_facade.md R196): acc 0, the request
and its chunk plan, the counters, the counts and CODE 0. The phase stays as it is. -/
def State.latchRequest (s : State) (q : Request) : State :=
  ((((s.setAcc 0x00#8).setSeq
      { phase := s.seq.phase, req := q, chunks := chunkPlan s.caps q.wlen.toNat q.rlen.toNat
        k := 0, i := 0, fail := none, tx := 0, rx := 0 }).setCounts 0 0).raiseOutcome .success)

/-- START acceptance (43_facade.md R196). -/
def startRequest (q : Request) (s : State) : Host.Outcome State Fault Refusal :=
  if s.caps.maxTotal < totalLen q.wlen q.rlen then .next (s.refuseStart .unsupportedLength)
  else if q.pec = true ∧ s.caps.hasPec = false then .next (s.refuseStart .notImplemented)
  else
    let t := s.latchRequest q
    if t.seq.chunks = [] then .next (t.raiseOutcome .success)
    else .next ((t.setBusy true).setSeq { t.seq with phase := .addr })

/-- A START word whose address fails 30_encoding.md R88 (d) is no command: R203 applies, before the other
checks (60_exceptions.md R224; log entry 16). -/
def startChecked (q : Request) (s : State) : Host.Outcome State Fault Refusal :=
  if addrFits q.a10 q.addr then startRequest q s else illegalCommand s

/-- NOP: no action beyond acceptance (43_facade.md R193). -/
def execNop (s : State) : Host.Outcome State Fault Refusal := .next s

/-- RESET (43_facade.md R194). -/
def execReset (s : State) : Host.Outcome State Fault Refusal :=
  .next (((((s.setAcc 0x00#8).setResult 0#8).setCounts 0 0).issueBusReset).raiseOutcome .success)

/-- QUERY_CAPS (43_facade.md R195). -/
def execQueryCaps (s : State) : Host.Outcome State Fault Refusal := .next (s.raiseOutcome .success)

/-- START_W (43_facade.md R197): RLEN = 0. -/
def execStartW (pec a10 : Bool) (addr : BitVec 10) (wlen : BitVec 8) (s : State) :
    Host.Outcome State Fault Refusal :=
  startChecked { op := .W, pec := pec, a10 := a10, addr := addr, wlen := wlen, rlen := 0#8 } s

/-- START_R (43_facade.md R198): WLEN = 0. -/
def execStartR (pec a10 : Bool) (addr : BitVec 10) (rlen : BitVec 8) (s : State) :
    Host.Outcome State Fault Refusal :=
  startChecked { op := .R, pec := pec, a10 := a10, addr := addr, wlen := 0#8, rlen := rlen } s

/-- START_WR (43_facade.md R199). -/
def execStartWR (pec a10 : Bool) (addr : BitVec 10) (wlen rlen : BitVec 8) (s : State) :
    Host.Outcome State Fault Refusal :=
  startChecked { op := .WR, pec := pec, a10 := a10, addr := addr, wlen := wlen, rlen := rlen } s

/-- Reserved opcode 0x9 (30_encoding.md R89, 43_facade.md R203), whatever the body. -/
def execReserved9 (_body : BitVec 28) (s : State) : Host.Outcome State Fault Refusal :=
  illegalCommand s

/-- Reserved opcodes 0xA and 0xB (30_encoding.md R89, 43_facade.md R203), whatever the body. -/
def execReservedAB (_body : BitVec 29) (s : State) : Host.Outcome State Fault Refusal :=
  illegalCommand s

/-- Reserved opcodes 0xC to 0xF (30_encoding.md R89, 43_facade.md R203), whatever the body. -/
def execReservedCF (_body : BitVec 30) (s : State) : Host.Outcome State Fault Refusal :=
  illegalCommand s

end Sys2Proof.Machine
end

