-- ==== Sys2Proof/Machine/Dispatch.lean ====
section
/-! DEFINITION. The command's own rule, for every instruction (spec/opcode_table.json "rule";
spec/43_facade.md R191). -/

namespace Sys2Proof.Machine

def exec (i : Instr) (s : State) : Host.Outcome State Fault Refusal :=
  match i with
  | .nop => Sys2Proof.Machine.execNop s
  | .reset => Sys2Proof.Machine.execReset s
  | .queryCaps => Sys2Proof.Machine.execQueryCaps s
  | .startW pec a10 addr wlen => Sys2Proof.Machine.execStartW pec a10 addr wlen s
  | .startR pec a10 addr rlen => Sys2Proof.Machine.execStartR pec a10 addr rlen s
  | .startWR pec a10 addr wlen rlen => Sys2Proof.Machine.execStartWR pec a10 addr wlen rlen s
  | .crcUpdate prev data => Sys2Proof.Machine.execCrcUpdate prev data s
  | .crcFinalize init off len => Sys2Proof.Machine.execCrcFinalize init off len s
  | .crcVerify expect off len => Sys2Proof.Machine.execCrcVerify expect off len s
  | .reserved9 body => Sys2Proof.Machine.execReserved9 body s
  | .reservedAB body => Sys2Proof.Machine.execReservedAB body s
  | .reservedCF body => Sys2Proof.Machine.execReservedCF body s

end Sys2Proof.Machine
end

