-- ==== Sys2Proof/Machine/HostPort.lean ====
section
/-! DEFINITION. The host port (spec/10_state.md R20 to R29, R45; spec/20_memory.md R62 to R66), the
acceptance of a command (spec/43_facade.md R191, R192) and the host agent's statements
(spec/30_encoding.md R93). -/

namespace Sys2Proof.Machine

/-! ## Commands -/

/-- x[CMD] <- w ; x[STATUS].OVR <- 0 (43_facade.md R191). -/
def State.acceptWord (s : State) (w : Word) : State := (s.setCmd w).setOvr false

/-- Acceptance of w, with the command's rule in the same step (43_facade.md R191, R203). -/
def acceptCommand (w : Word) (s : State) : Host.Outcome State Fault Refusal :=
  match decode w with
  | .ok i => exec i (s.acceptWord w)
  | .error _ => illegalCommand (s.acceptWord w)

/-- A host write of w to CMD: ignored with OVR set while BUSY = 1 (43_facade.md R192), else accepted. -/
def commandWrite (w : Word) (s : State) : Host.Outcome State Fault Refusal :=
  if s.busy then .next (s.setOvr true) else acceptCommand w s

/-! ## Accesses -/

/-- The access is a 32-bit register access of 10_state.md R45. -/
def isRegAccess (width : Nat) (off : BitVec 9) : Bool :=
  decide (width = 32 ∧ off.toNat < 0x100 ∧ off.toNat % 4 = 0)

/-- The access is an 8-bit BUF access of 10_state.md R45. -/
def isBufAccess (width : Nat) (off : BitVec 9) : Bool :=
  decide (width = 8 ∧ 0x100 ≤ off.toNat)

/-- The BUF index of a host offset: offset 0x100 + i is index i (20_memory.md R60). -/
def bufIndex (off : BitVec 9) : Nat := off.toNat - 0x100

/-- The 32-bit read of the register at an aligned offset (10_state.md R20 to R28). -/
def State.readReg (s : State) (off : BitVec 9) : Word :=
  if off = 0x000#9 then s.cmd
  else if off = 0x004#9 then s.statusWord
  else if off = 0x008#9 then s.xferCount.setWidth 32
  else if off = 0x00C#9 then s.rxCount.setWidth 32
  else if off = 0x010#9 then s.result.setWidth 32
  else if off = 0x014#9 then s.acc.setWidth 32
  else if off = 0x018#9 then (BitVec.ofNat 16 s.caps.maxTx).setWidth 32
  else if off = 0x01C#9 then (BitVec.ofNat 16 s.caps.maxRx).setWidth 32
  else if off = 0x020#9 then (BitVec.ofNat 16 s.caps.maxTotal).setWidth 32
  else if off = 0x024#9 then (BitVec.ofNat 16 s.caps.bufCap).setWidth 32
  else 0#32

/-- A host write of a BUF byte (20_memory.md R64): ignored at a reserved offset, ignored with OVR set
while BUSY = 1, else stored. -/
def bufWrite (i : Nat) (b : Byte) (s : State) : State :=
  if s.caps.bufCap ≤ i then s
  else if s.busy then s.setOvr true
  else s.setBuf (s.buf.write i b)

/-- The byte a host read of BUF index i gives, and the state after it (20_memory.md R65,
10_state.md R33, 70_reset_and_hazards.md R251): 0 at a reserved offset (log entry 23), a draw while
BUSY = 1 or when nothing has written the byte (log entry 5), else the byte. -/
def bufRead (i : Nat) (s : State) : Byte × State :=
  if s.caps.bufCap ≤ i then (0#8, s)
  else if s.busy then (s.drawnByte, s.afterDraw)
  else
    match s.buf.read i with
    | some b => (b, s)
    | none => (s.drawnByte, s.afterDraw)

/-- A host write (10_state.md R45, R28, R29; 20_memory.md R63, R64, R66): CMD runs or is ignored, every
other register ignores it, BUF takes a byte, and anything else is HostAccessError. -/
def hostWrite (width : Nat) (off : BitVec 9) (v : Word) (s : State) :
    Host.Outcome State Fault Refusal :=
  if isRegAccess width off then
    if off = 0x000#9 then commandWrite v s else .next s
  else if isBufAccess width off then .next (bufWrite (bufIndex off) (v.setWidth 8) s)
  else .fault (.hostAccessError off width)

/-- A host read into temporary t (10_state.md R45, 20_memory.md R63, R65, R66). -/
def hostRead (width : Nat) (off : BitVec 9) (t : Nat) (s : State) :
    Host.Outcome State Fault Refusal :=
  if isRegAccess width off then .next (s.setTemp t (s.readReg off))
  else if isBufAccess width off then
    .next ((bufRead (bufIndex off) s).2.setTemp t ((bufRead (bufIndex off) s).1.setWidth 32))
  else .fault (.hostAccessError off width)

/-! ## Host programs -/

/-- The field v[hi:lo] as a number (00_scope.md R10). -/
def bitsOf (v : Word) (hi lo : Nat) : Nat := v.toNat / 2 ^ lo % 2 ^ (hi + 1 - lo)

/-- One statement of the host program (30_encoding.md R93); the host's position already points past it. -/
def hostStmt (st : HostStmt) (s : State) : Host.Outcome State Fault Refusal :=
  match st with
  | .write width off v => hostWrite width off v s
  | .read width off t => hostRead width off t s
  | .goto target => .next (s.setHostPc target)
  | .ifEq t hi lo v target =>
    .next (if bitsOf (s.temp t) hi lo = v then s.setHostPc target else s)
  | .ifNe t hi lo v target =>
    .next (if bitsOf (s.temp t) hi lo = v then s else s.setHostPc target)
  | .halt => .next (s.setHostPc s.host.prog.length)

/-- The statement W32 off, v. -/
def w32 (off : BitVec 9) (v : Word) : HostStmt := .write 32 off v

/-- The statement R32 off -> t. -/
def r32 (off : BitVec 9) (t : Nat) : HostStmt := .read 32 off t

/-- The statement W8 off, v. -/
def w8 (off : BitVec 9) (v : Byte) : HostStmt := .write 8 off (v.setWidth 32)

/-- The statement R8 off -> t. -/
def r8 (off : BitVec 9) (t : Nat) : HostStmt := .read 8 off t

/-- The pseudo-instruction CMD: W32 0x000, the encoding (30_encoding.md R93). -/
def cmdStmt (i : Instr) : HostStmt := w32 0x000#9 (encode i)

/-- The pseudo-instruction WAIT at statement index l, polling STATUS.BUSY through temporary t:
L: R32 0x004 -> t; if t[8] = 1 goto L (30_encoding.md R93). -/
def waitStmts (l t : Nat) : List HostStmt := [r32 0x004#9 t, .ifEq t 8 8 1 l]

/-- The host agent has a statement left. -/
def State.hostEnabled (s : State) : Bool := decide (s.host.pc < s.host.prog.length)

/-- One step of the host: the statement at its position, which moves past it first. -/
def hostStep (s : State) : Host.Outcome State Fault Refusal :=
  match s.host.prog[s.host.pc]? with
  | none => .next s
  | some st => hostStmt st (s.setHostPc (s.host.pc + 1))

end Sys2Proof.Machine
end

