-- ==== Sys2Proof/Machine/Schedule.lean ====
section
/-! DEFINITION. Which agent moves next (spec/00_scope.md R16; spec/20_memory.md R67, R71;
spec/70_reset_and_hazards.md R267). -/

namespace Sys2Proof.Machine

/-- The agent that moves when both can: as the schedule says, or else a free choice
(20_memory.md R67; log entry 7). -/
def State.turn (s : State) : Agent :=
  match s.schedule with
  | a :: _ => a
  | [] => Config.freeTurn s.draws

/-- The state once that choice has been taken. -/
def State.afterTurn (s : State) : State :=
  match s.schedule with
  | _ :: rest => { s with schedule := rest }
  | [] => s.afterDraw

/-- The step of one agent. -/
def agentStep (a : Agent) (s : State) : Host.Outcome State Fault Refusal :=
  match a with
  | .host => hostStep s
  | .sequencer => sequencerStep s

/-- One step of the machine: an applied power-on reset (70_reset_and_hazards.md R252), else the step of
the one agent that can move, else that of the agent whose turn it is. When neither can move the run is
over (R267) and nothing changes (log entry 10). -/
def machineStep (s : State) : Host.Outcome State Fault Refusal :=
  if s.powerOn then .next s.powerOnReset
  else
    match s.hostEnabled, s.sequencerEnabled with
    | false, false => .next s
    | true, false => agentStep .host s
    | false, true => agentStep .sequencer s
    | true, true => agentStep s.turn s.afterTurn

/-- s with w as the host's next statement, W32 0x000, w, and everything its acceptance needs: no
power-on reset applied, and BUSY = 0 with phase Idle, so that the host is the one agent that can move
(log entry 1). -/
def State.withCommandWord (s : State) (w : Word) : State :=
  { s with
    powerOn := false, busy := false, seq := { s.seq with phase := .idle }
    host := { s.host with prog := [w32 0x000#9 w], pc := 0 } }

end Sys2Proof.Machine
end

