-- ==== Sys2Proof/Machine/Step.lean ====
section
/-! DEFINITION. One step of the machine, and how the host tooling places an instruction. -/

namespace Sys2Proof.Machine

/-- One step: one indivisible transition of one agent (spec/00_scope.md R15, R16; spec/20_memory.md
R67). -/
def step (s : State) : Host.Outcome State Fault Refusal := machineStep s

/-- s with the command word w written to CMD by the host's next step. Every command is one 32-bit word
(spec/30_encoding.md R80), so the number of bits plays no part. -/
def State.withFetchWord (s : State) (_nbits w : Nat) : State :=
  s.withCommandWord (BitVec.ofNat 32 w)

end Sys2Proof.Machine
end

