-- ==== Sys2Proof/Safety.lean ====
section
/-! DEFINITION. What a good state and a good run are: the invariant of the machine, the bound on a
request's micro-steps (spec/42_transaction_driver.md R175), the end of a run
(spec/70_reset_and_hazards.md R267), and the terms the obligations use. -/

namespace Sys2Proof.Machine

/-! ## Terms -/

/-- The instruction is one of the nine commands of 30_encoding.md R81. -/
def isCommand : Instr → Bool
  | .reserved9 _ => false
  | .reservedAB _ => false
  | .reservedCF _ => false
  | .nop => true
  | .reset => true
  | .queryCaps => true
  | .startW _ _ _ _ => true
  | .startR _ _ _ _ => true
  | .startWR _ _ _ _ _ => true
  | .crcUpdate _ _ => true
  | .crcFinalize _ _ _ => true
  | .crcVerify _ _ _ => true

/-- The request that each START instruction latches (10_state.md R39). -/
def startOf : Instr → Option Request
  | .startW pec a10 addr wlen =>
    some { op := .W, pec := pec, a10 := a10, addr := addr, wlen := wlen, rlen := 0#8 }
  | .startR pec a10 addr rlen =>
    some { op := .R, pec := pec, a10 := a10, addr := addr, wlen := 0#8, rlen := rlen }
  | .startWR pec a10 addr wlen rlen =>
    some { op := .WR, pec := pec, a10 := a10, addr := addr, wlen := wlen, rlen := rlen }
  | .nop => none
  | .reset => none
  | .queryCaps => none
  | .crcUpdate _ _ => none
  | .crcFinalize _ _ _ => none
  | .crcVerify _ _ _ => none
  | .reserved9 _ => none
  | .reservedAB _ => none
  | .reservedCF _ => none

/-- BUF holds the bytes bs from index off on, every one of them written. -/
def Memory.holds (m : Memory) (off : Nat) (bs : List Byte) : Prop :=
  ∀ j b, bs[j]? = some b → m.read (off + j) = some b

/-- Every listed index of BUF is below n. -/
def Memory.below (m : Memory) (n : Nat) : Prop := ∀ c ∈ m, c.1 < n

/-- The data bytes of the chunks of one direction. -/
def dirBytes (d : Dir) (cs : List Chunk) : Nat :=
  ((cs.filter (fun c => c.dir = d)).map Chunk.len).sum

/-- The micro-steps, taken with these answers in turn, as long as none faults. -/
def runBus : List BusAnswer → State → Host.Outcome State Fault Refusal
  | [], s => .next s
  | a :: as, s =>
    match microStep a s with
    | .next t => runBus as t
    | .fault f => .fault f
    | .refused r => .refused r

/-- A binary polynomial: bit i of v is the coefficient of x^i (40_checksum.md R111 (a)). -/
noncomputable def toPoly {n : Nat} (v : BitVec n) : Polynomial (ZMod 2) :=
  ∑ i ∈ Finset.range n, if v.getLsbD i then Polynomial.X ^ i else 0

/-- g(x) = x^8 + x^2 + x + 1 (40_checksum.md R110). -/
noncomputable def crcPoly : Polynomial (ZMod 2) :=
  Polynomial.X ^ 8 + Polynomial.X ^ 2 + Polynomial.X + 1

/-- One micro-step's worth of a PEC byte: 1 when the request's PEC bit is set. -/
def pecCost (pec : Bool) : Nat := if pec then 1 else 0

/-- The downstream requests of a chunk that does not fail: len + 2 + pec (42_transaction_driver.md R174). -/
def chunkCost (pec : Bool) (c : Chunk) : Nat := c.len + 2 + pecCost pec

/-- The requests of a write chunk that does not fail (42_transaction_driver.md R174), with bs its bytes and
p its PEC byte. -/
def writeCycle (q : Request) (bs : List Byte) (p : Byte) : List BusRequest :=
  [.startCycle (addrBytes q.addr q.a10 0#1)] ++ bs.map .writeByte ++
    (if q.pec then [.writeByte p] else []) ++ [.stopCycle]

/-- The requests of a read chunk of n bytes that does not fail (42_transaction_driver.md R174). -/
def readCycle (q : Request) (n : Nat) : List BusRequest :=
  [.startCycle (addrBytes q.addr q.a10 1#1)] ++ List.replicate (n - 1) (.readByte false) ++
    [.readByte (!q.pec)] ++ (if q.pec then [.readByte true] else []) ++ [.stopCycle]

/-- The requests that the downstream port has seen. -/
def State.requests (s : State) : List BusRequest := s.busLog.map BusEvent.request

/-- At most this many micro-steps are left of the current chunk, in the current phase. -/
def chunkRest (s : State) (c : Chunk) : Nat :=
  match s.seq.phase with
  | .idle => 0
  | .addr => chunkCost s.seq.req.pec c
  | .data => (c.len - s.seq.i) + 1 + pecCost s.seq.req.pec
  | .pec => 2
  | .stop => 1
  | .abortStop => 1

/-- At most this many micro-steps are left of the request in progress (42_transaction_driver.md R175). -/
def State.remaining (s : State) : Nat :=
  if s.busy then
    (match s.currentChunk with
     | none => 0
     | some c => chunkRest s c) +
      ((s.seq.chunks.drop (s.seq.k + 1)).map (chunkCost s.seq.req.pec)).sum
  else 0

/-- A run is over: no host statement is left and BUSY = 0 (70_reset_and_hazards.md R267). -/
def State.finished (s : State) : Bool := !s.hostEnabled && !s.busy

/-! ## The invariant -/

/-- What the phase says of seq.i and seq.fail in the current chunk c (10_state.md R36, R38;
42_transaction_driver.md R162 to R171). -/
def phaseFits (s : State) (c : Chunk) : Prop :=
  match s.seq.phase with
  | .idle => False
  | .addr => s.seq.i = 0 ∧ s.seq.fail = none
  | .data => s.seq.i < c.len ∧ s.seq.fail = none
  | .pec => s.seq.i = c.len ∧ s.seq.fail = none ∧ s.seq.req.pec = true
  | .stop =>
    s.seq.i = c.len ∧
      (s.seq.fail = none ∨
        (s.seq.fail = some .checksumMismatch ∧ c.dir = .R ∧ s.seq.req.pec = true))
  | .abortStop => s.seq.fail = some .deviceNotPresent ∨ s.seq.fail = some .busTimeout

/-- What holds of the sequencer while BUSY = 1. -/
structure RequestInv (s : State) : Prop where
  /-- The chunk list is the plan of the latched request (43_facade.md R196). -/
  plan : s.seq.chunks = chunkPlan s.caps s.seq.req.wlen.toNat s.seq.req.rlen.toNat
  /-- The request passed the length check (43_facade.md R196). -/
  fits : totalLen s.seq.req.wlen s.seq.req.rlen ≤ s.caps.maxTotal
  /-- The address passed 30_encoding.md R88 (d). -/
  addr : addrFits s.seq.req.a10 s.seq.req.addr = true
  /-- A START_W has RLEN = 0 and a START_R has WLEN = 0 (30_encoding.md R88 (b), (c)). -/
  kind : (s.seq.req.op = .W → s.seq.req.rlen = 0#8) ∧ (s.seq.req.op = .R → s.seq.req.wlen = 0#8)
  /-- PEC is used only with the engine (43_facade.md R196). -/
  engine : s.seq.req.pec = true → s.caps.hasPec = true
  /-- 0 ≤ seq.k < len(seq.chunks) (10_state.md R36), and the phase fits the current chunk. -/
  current : ∃ c, s.currentChunk = some c ∧ phaseFits s c
  /-- seq.tx and seq.rx count the completed chunks (10_state.md R36). -/
  sent : s.seq.tx = dirBytes .W (s.seq.chunks.take s.seq.k)
  received : s.seq.rx = dirBytes .R (s.seq.chunks.take s.seq.k)
  /-- CODE and the counts read 0 (70_reset_and_hazards.md R260). -/
  quiet : s.code = .success ∧ s.xferCount = 0#16 ∧ s.rxCount = 0#16
  /-- With pec = 0, acc stays 0 (42_transaction_driver.md R164). -/
  plain : s.seq.req.pec = false → s.acc = 0x00#8

/-- The invariant of the machine. -/
structure StateInv (s : State) : Prop where
  /-- The parameters are in their legal ranges (00_scope.md R7). -/
  legal : s.caps.legal = true
  /-- BUF keeps its canonical form, and lists BUF indices only (10_state.md R33). -/
  bufWf : s.buf.wf = true
  bufBelow : s.buf.below s.caps.bufCap
  /-- The host's temporaries keep their canonical form. -/
  tempsWf : cellsRising s.host.temps = true
  /-- BUSY = 1 exactly while the phase is not Idle (10_state.md R36). -/
  busyPhase : s.busy = true ↔ s.seq.phase ≠ .idle
  /-- The sequencer is coherent while BUSY = 1. -/
  request : s.busy = true → RequestInv s
  /-- RX_COUNT ≤ XFER_COUNT ≤ MAX_TOTAL (10_state.md R23). -/
  counts : s.rxCount.toNat ≤ s.xferCount.toNat ∧ s.xferCount.toNat ≤ s.caps.maxTotal
  /-- Without the CRC engine no checksum is ever produced (40_checksum.md R116). -/
  noEngine : s.caps.hasPec = false → s.acc = 0x00#8 ∧ s.result = 0#8

/-- Two states that agree on everything that may influence a request in progress (10_state.md R47): the
parameters, the sequencer, acc, the registers a request writes, and the bytes of its write part. -/
structure RequestAgrees (s t : State) : Prop where
  caps : s.caps = t.caps
  seq : s.seq = t.seq
  acc : s.acc = t.acc
  code : s.code = t.code
  busy : s.busy = t.busy
  xfer : s.xferCount = t.xferCount
  rx : s.rxCount = t.rxCount
  writePart : ∀ i < s.seq.req.wlen.toNat, s.buf.read i = t.buf.read i

end Sys2Proof.Machine
end

