-- ==== Sys2Proof/Certificates/Slice0/Obligations.lean ====
section
/-! DEFINITION. The statements for the provers. -/

open Sys2Proof Sys2Proof.Machine

/-! ## Encoding -/

/-- Words written out from the formats of 30_encoding.md R81 to R85 decode to the commands they stand for,
and the words of the reserved opcodes to their rows (R89). -/
def Obligations.WrittenOutWordsDecode : Prop :=
  decode 0x00000000#32 = .ok .nop ∧
  decode 0x10000000#32 = .ok .reset ∧
  decode 0x20000000#32 = .ok .queryCaps ∧
  decode 0x38500200#32 = .ok (.startW true false 0x050#10 2#8) ∧
  decode 0x47FF0001#32 = .ok (.startR false true 0x3FF#10 1#8) ∧
  decode 0x5EA50102#32 = .ok (.startWR true true 0x2A5#10 1#8 2#8) ∧
  decode 0x60001234#32 = .ok (.crcUpdate 0x12#8 0x34#8) ∧
  decode 0x70C20405#32 = .ok (.crcFinalize 0xC2#8 4#8 5#8) ∧
  decode 0x80F40009#32 = .ok (.crcVerify 0xF4#8 0#8 9#8) ∧
  decode 0x90000000#32 = .ok (.reserved9 0#28) ∧
  decode 0xB0000001#32 = .ok (.reservedAB 0x10000001#29) ∧
  decode 0xFFFFFFFF#32 = .ok (.reservedCF 0x3FFFFFFF#30)

/-- Decoding the word of any well-formed instruction gives the instruction back, with every operand at
every value its field admits. -/
def Obligations.DecodeInvertsEncode : Prop :=
  ∀ i : Instr, i.wf = true → decode (encode i) = .ok i

/-- A word that decodes is the word of the instruction it decodes to, and that instruction is well-formed:
no bit of the word is dropped. -/
def Obligations.EncodeInvertsDecode : Prop :=
  ∀ (w : Word) (i : Instr), decode w = .ok i → encode i = w ∧ i.wf = true

/-- The decoder accepts exactly the words of OP 0x0 to 0x8 that pass 30_encoding.md R88 as commands, and the
words of OP 0x9 to 0xF as reserved opcodes (R89); it rejects every other word (R94). -/
def Obligations.DecoderAcceptsExactlyWellFormedWords : Prop :=
  ∀ w : Word,
    (wordWellFormed w = true ↔ ∃ i, decode w = .ok i ∧ isCommand i = true) ∧
    (9 ≤ (opField w).toNat ↔ ∃ i, decode w = .ok i ∧ isCommand i = false) ∧
    ((opField w).toNat ≤ 8 → wordWellFormed w = false → ∃ e, decode w = .error e)

/-- A word lies in at most one row of the opcode table, and a word that decodes lies in its instruction's
row. -/
def Obligations.OpcodeRowsAreDisjoint : Prop :=
  (∀ w : Word, ∀ r ∈ opcodeTable, ∀ r' ∈ opcodeTable,
    r.covers w = true → r'.covers w = true → r = r') ∧
  ∀ (w : Word) (i : Instr), decode w = .ok i → i.row ∈ opcodeTable ∧ i.row.covers w = true

/-- The address-phase bytes as numbers (30_encoding.md R86): 2 A + R/W for a 7-bit address A; 0xF0 + 2 (A / 256)
+ R/W and then A mod 256 for a 10-bit address A. -/
def Obligations.AddressBytesFormat : Prop :=
  ∀ (addr : BitVec 10) (rw : BitVec 1),
    (∃ b, addrBytes addr false rw = [b] ∧ b.toNat = 2 * (addr.toNat % 128) + rw.toNat) ∧
    (∃ b b', addrBytes addr true rw = [b, b'] ∧
      b.toNat = 0xF0 + 2 * (addr.toNat / 256) + rw.toNat ∧ b'.toNat = addr.toNat % 256)

/-! ## Commands without a bus request -/

/-- NOP (43_facade.md R193): its own rule changes nothing; its word accepted clears OVR and is kept in CMD; a
word of its opcode with a bit of [27:0] set is IllegalCommand. -/
def Obligations.NopChangesNothing : Prop :=
  ∀ s : State,
    exec .nop s = .next s ∧
    (s.busy = false →
      commandWrite 0x00000000#32 s = .next { s with cmd := 0x00000000#32, ovr := false } ∧
      ∀ w : Word, opField w = 0x0#4 → w.extractLsb' 0 28 ≠ 0#28 →
        commandWrite w s = .next { s with cmd := w, ovr := false, code := .illegalCommand })

/-- RESET (43_facade.md R194): acc, RESULT and both counts become 0, one busReset is issued, CODE is Success, and
nothing else changes; its word accepted is kept in CMD; a word of its opcode with a bit of [27:0] set is
IllegalCommand; while BUSY = 1 its word is ignored and sets OVR. -/
def Obligations.ResetClearsResultsAndResetsBus : Prop :=
  ∀ s : State,
    exec .reset s = .next
      { s with
        acc := 0x00#8, result := 0#8, xferCount := 0#16, rxCount := 0#16, code := .success
        busLog := s.busLog ++ [{ request := .busReset, response := none, data := none }] } ∧
    (s.busy = false →
      commandWrite 0x10000000#32 s = .next
        { s with
          cmd := 0x10000000#32, ovr := false
          acc := 0x00#8, result := 0#8, xferCount := 0#16, rxCount := 0#16, code := .success
          busLog := s.busLog ++ [{ request := .busReset, response := none, data := none }] } ∧
      ∀ w : Word, opField w = 0x1#4 → w.extractLsb' 0 28 ≠ 0#28 →
        commandWrite w s = .next { s with cmd := w, ovr := false, code := .illegalCommand }) ∧
    (s.busy = true → commandWrite 0x10000000#32 s = .next { s with ovr := true })

/-- QUERY_CAPS (43_facade.md R195): CODE is Success and no other register changes; its word accepted is kept in
CMD; a word of its opcode with a bit of [27:0] set is IllegalCommand; the capability registers read the
capabilities in every state, BUSY or not. -/
def Obligations.QueryCapsSucceeds : Prop :=
  ∀ s : State,
    exec .queryCaps s = .next { s with code := .success } ∧
    (s.busy = false →
      commandWrite 0x20000000#32 s = .next
        { s with cmd := 0x20000000#32, ovr := false, code := .success } ∧
      ∀ w : Word, opField w = 0x2#4 → w.extractLsb' 0 28 ≠ 0#28 →
        commandWrite w s = .next { s with cmd := w, ovr := false, code := .illegalCommand }) ∧
    (s.caps.legal = true →
      (s.readReg 0x018#9).toNat = s.caps.maxTx ∧ (s.readReg 0x01C#9).toNat = s.caps.maxRx ∧
      (s.readReg 0x020#9).toNat = s.caps.maxTotal ∧ (s.readReg 0x024#9).toNat = s.caps.bufCap)

/-! ## The START commands -/

/-- START acceptance for START_W, START_R and START_WR (43_facade.md R196), for every word whose address passes
30_encoding.md R88 (d): too long; PEC without the engine; nothing to move; and a request that begins. -/
def Obligations.StartAcceptance : Prop :=
  ∀ (s : State) (i : Instr) (q : Request), startOf i = some q →
    (q.a10 = false → q.addr.toNat < 128) →
    (s.caps.maxTotal < q.wlen.toNat + q.rlen.toNat →
      exec i s = .next
        { s with xferCount := 0#16, rxCount := 0#16, code := .unsupportedLength }) ∧
    (q.wlen.toNat + q.rlen.toNat ≤ s.caps.maxTotal → q.pec = true → s.caps.hasPec = false →
      exec i s = .next { s with xferCount := 0#16, rxCount := 0#16, code := .notImplemented }) ∧
    ((q.pec = true → s.caps.hasPec = true) → q.wlen.toNat + q.rlen.toNat = 0 →
      exec i s = .next
        { s with
          acc := 0x00#8, xferCount := 0#16, rxCount := 0#16, code := .success
          seq :=
            { phase := s.seq.phase, req := q, chunks := [], k := 0, i := 0, fail := none
              tx := 0, rx := 0 } }) ∧
    ((q.pec = true → s.caps.hasPec = true) → 0 < q.wlen.toNat + q.rlen.toNat →
      q.wlen.toNat + q.rlen.toNat ≤ s.caps.maxTotal →
      exec i s = .next
        { s with
          acc := 0x00#8, xferCount := 0#16, rxCount := 0#16, code := .success, busy := true
          seq :=
            { phase := .addr, req := q, chunks := chunkPlan s.caps q.wlen.toNat q.rlen.toNat
              k := 0, i := 0, fail := none, tx := 0, rx := 0 } })

/-! ## The CRC commands -/

/-- CRC_UPDATE (40_checksum.md R113): with the engine RESULT is the byte folded and CODE is Success; without it
CODE is NotImplemented; its word 0x6, 0, PREV, DATA accepted runs it; a word of its opcode with a bit of [27:16]
set is IllegalCommand; PREV = DATA gives 0. -/
def Obligations.CrcUpdateFoldsOneByte : Prop :=
  ∀ (s : State) (prev data : Byte),
    (s.caps.hasPec = true →
      exec (.crcUpdate prev data) s = .next
        { s with result := crc8Update prev data, code := .success }) ∧
    (s.caps.hasPec = false →
      exec (.crcUpdate prev data) s = .next { s with code := .notImplemented }) ∧
    (s.busy = false →
      (let w := 0x6#4 ++ 0#12 ++ prev ++ data
       commandWrite w s = exec (.crcUpdate prev data) { s with cmd := w, ovr := false }) ∧
      ∀ w : Word, opField w = 0x6#4 → w.extractLsb' 16 12 ≠ 0#12 →
        commandWrite w s = .next { s with cmd := w, ovr := false, code := .illegalCommand }) ∧
    crc8Update prev prev = 0x00#8 ∧ crc8Update 0x12#8 0x34#8 = 0xF2#8

/-- CRC_FINALIZE (40_checksum.md R114): a run past the end of BUF is UnsupportedLength; without the engine
NotImplemented; else RESULT is the fold of the run's bytes from INIT and CODE is Success; a run with an
unwritten byte is the fault UnwrittenRead of its first such byte; its word 0x7, 0, INIT, OFF, LEN accepted runs
it; a word of its opcode with a bit of [27:24] set is IllegalCommand. -/
def Obligations.CrcFinalizeFoldsRun : Prop :=
  ∀ (s : State) (init : Byte) (off len : BitVec 8),
    (s.caps.bufCap < off.toNat + len.toNat →
      exec (.crcFinalize init off len) s = .next { s with code := .unsupportedLength }) ∧
    (off.toNat + len.toNat ≤ s.caps.bufCap → s.caps.hasPec = false →
      exec (.crcFinalize init off len) s = .next { s with code := .notImplemented }) ∧
    (off.toNat + len.toNat ≤ s.caps.bufCap → s.caps.hasPec = true →
      (∀ bs : List Byte, bs.length = len.toNat → s.buf.holds off.toNat bs →
        exec (.crcFinalize init off len) s = .next
          { s with result := crc8 init bs, code := .success }) ∧
      ∀ j < len.toNat, (∀ i < j, s.buf.read (off.toNat + i) ≠ none) →
        s.buf.read (off.toNat + j) = none →
        exec (.crcFinalize init off len) s = .fault (.unwrittenRead (off.toNat + j))) ∧
    (s.busy = false →
      (let w := 0x7#4 ++ 0#4 ++ init ++ off ++ len
       commandWrite w s = exec (.crcFinalize init off len) { s with cmd := w, ovr := false }) ∧
      ∀ w : Word, opField w = 0x7#4 → w.extractLsb' 24 4 ≠ 0#4 →
        commandWrite w s = .next { s with cmd := w, ovr := false, code := .illegalCommand })

/-- CRC_VERIFY (40_checksum.md R115): as CRC_FINALIZE from 0x00, with CODE Success when the checksum is EXPECT and
ChecksumMismatch when it is not; its word 0x8, 0, EXPECT, OFF, LEN accepted runs it; a word of its opcode with a
bit of [27:24] set is IllegalCommand. -/
def Obligations.CrcVerifyComparesRun : Prop :=
  ∀ (s : State) (expect : Byte) (off len : BitVec 8),
    (s.caps.bufCap < off.toNat + len.toNat →
      exec (.crcVerify expect off len) s = .next { s with code := .unsupportedLength }) ∧
    (off.toNat + len.toNat ≤ s.caps.bufCap → s.caps.hasPec = false →
      exec (.crcVerify expect off len) s = .next { s with code := .notImplemented }) ∧
    (off.toNat + len.toNat ≤ s.caps.bufCap → s.caps.hasPec = true →
      (∀ bs : List Byte, bs.length = len.toNat → s.buf.holds off.toNat bs →
        (crc8 0x00#8 bs = expect →
          exec (.crcVerify expect off len) s = .next
            { s with result := crc8 0x00#8 bs, code := .success }) ∧
        (crc8 0x00#8 bs ≠ expect →
          exec (.crcVerify expect off len) s = .next
            { s with result := crc8 0x00#8 bs, code := .checksumMismatch })) ∧
      ∀ j < len.toNat, (∀ i < j, s.buf.read (off.toNat + i) ≠ none) →
        s.buf.read (off.toNat + j) = none →
        exec (.crcVerify expect off len) s = .fault (.unwrittenRead (off.toNat + j))) ∧
    (s.busy = false →
      (let w := 0x8#4 ++ 0#4 ++ expect ++ off ++ len
       commandWrite w s = exec (.crcVerify expect off len) { s with cmd := w, ovr := false }) ∧
      ∀ w : Word, opField w = 0x8#4 → w.extractLsb' 24 4 ≠ 0#4 →
        commandWrite w s = .next { s with cmd := w, ovr := false, code := .illegalCommand })

/-! ## Illegal words -/

/-- The reserved opcodes complete as IllegalCommand, whatever their body, and change only CODE (30_encoding.md
R89, 43_facade.md R203). A START instruction whose address fails 30_encoding.md R88 (d) does the same; no word
decodes to one, and that is the model's choice (log entry 16). -/
def Obligations.ReservedOpcodesAreIllegal : Prop :=
  ∀ s : State,
    (∀ body, exec (.reserved9 body) s = .next { s with code := .illegalCommand }) ∧
    (∀ body, exec (.reservedAB body) s = .next { s with code := .illegalCommand }) ∧
    (∀ body, exec (.reservedCF body) s = .next { s with code := .illegalCommand }) ∧
    (∀ i q, startOf i = some q → q.a10 = false → 128 ≤ q.addr.toNat →
      exec i s = .next { s with code := .illegalCommand })

/-- An accepted word that is no well-formed command, its OP 0x9 to 0xF or a check of 30_encoding.md R88 failed,
completes as IllegalCommand: CMD holds it, OVR is 0, CODE is IllegalCommand and nothing else changes
(43_facade.md R203). -/
def Obligations.IllegalWordsChangeOnlyCode : Prop :=
  ∀ (s : State) (w : Word), s.busy = false → wordWellFormed w = false →
    commandWrite w s = .next { s with cmd := w, ovr := false, code := .illegalCommand }

/-! ## The path of a command -/

/-- A step in which the host writes w to CMD while BUSY = 0 (43_facade.md R191): CMD becomes w, OVR 0, and the rule
of the instruction that w decodes to runs in the same step, or IllegalCommand where w does not decode. The
host's position moves past the statement. -/
def Obligations.StepRunsDecodedCommand : Prop :=
  ∀ (s : State) (w : Word), s.powerOn = false → s.busy = false →
    s.host.prog[s.host.pc]? = some (w32 0x000#9 w) →
    (∀ i, decode w = .ok i →
      step s = exec i
        { s with cmd := w, ovr := false, host := { s.host with pc := s.host.pc + 1 } }) ∧
    (∀ e, decode w = .error e →
      step s = .next
        { s with
          cmd := w, ovr := false, code := .illegalCommand
          host := { s.host with pc := s.host.pc + 1 } })

/-- A write to CMD while BUSY = 1 is lost (43_facade.md R192): only OVR changes; in a step of the machine in which the
host moves (20_memory.md R67), beside the host's position and the schedule that gave it its turn. That a schedule
in the state gives the turn is the model's choice (log entry 7). -/
def Obligations.CommandWhileBusyIsLost : Prop :=
  ∀ (s : State) (w : Word), s.busy = true →
    commandWrite w s = .next { s with ovr := true } ∧
    ∀ rest, s.powerOn = false → s.seq.phase ≠ .idle → s.schedule = .host :: rest →
      s.host.prog[s.host.pc]? = some (w32 0x000#9 w) →
      step s = .next
        { s with
          ovr := true, schedule := rest, host := { s.host with pc := s.host.pc + 1 } }

/-- The frame of the commands: none changes CMD, OVR, the capabilities, any byte of BUF, the host or the model's
own fields; only RESET touches the downstream port; only START and RESET touch acc and the counts; only START
touches BUSY and the sequencer; only RESET and the CRC commands touch RESULT; NOP leaves CODE as it is. -/
def Obligations.CommandFrame : Prop :=
  ∀ (i : Instr) (s t : State), exec i s = .next t →
    t.cmd = s.cmd ∧ t.ovr = s.ovr ∧ t.caps = s.caps ∧ t.host = s.host ∧
    (∀ a, t.buf.read a = s.buf.read a) ∧
    t.answers = s.answers ∧ t.schedule = s.schedule ∧ t.draws = s.draws ∧ t.powerOn = s.powerOn ∧
    (i ≠ .reset → t.busLog = s.busLog) ∧
    (startOf i = none → t.busy = s.busy ∧ t.seq = s.seq) ∧
    (startOf i = none → i ≠ .reset →
      t.acc = s.acc ∧ t.xferCount = s.xferCount ∧ t.rxCount = s.rxCount) ∧
    (startOf i ≠ none → t.result = s.result) ∧
    (i = .nop ∨ i = .queryCaps ∨ isCommand i = false → t.result = s.result) ∧
    (i = .nop → t.code = s.code)

/-- A command always goes on, but for one case: CRC_FINALIZE or CRC_VERIFY over a run of BUF with an unwritten byte
(70_reset_and_hazards.md R251), which is the fault UnwrittenRead of a byte of that run. -/
def Obligations.CommandsStopOnlyOnUnwrittenBytes : Prop :=
  ∀ (i : Instr) (s : State),
    (∀ r, exec i s ≠ .refused r) ∧
    ∀ f, exec i s = .fault f →
      ∃ v off len j, (i = .crcFinalize v off len ∨ i = .crcVerify v off len) ∧
        j < len.toNat ∧ s.buf.read (off.toNat + j) = none ∧
        f = .unwrittenRead (off.toNat + j)

/-! ## The CRC-8 function -/

/-- Reference values: the check value of "123456789" (40_checksum.md R117) and the first sixteen entries of the table
T (R111 (b)). -/
def Obligations.CrcReferenceValues : Prop :=
  crc8 0x00#8 [0x31#8, 0x32#8, 0x33#8, 0x34#8, 0x35#8, 0x36#8, 0x37#8, 0x38#8, 0x39#8] = 0xF4#8 ∧
  (List.range 16).map (fun v => crc8Update 0x00#8 (BitVec.ofNat 8 v)) =
    [0x00#8, 0x07#8, 0x0E#8, 0x09#8, 0x1C#8, 0x1B#8, 0x12#8, 0x15#8,
     0x38#8, 0x3F#8, 0x36#8, 0x31#8, 0x24#8, 0x23#8, 0x2A#8, 0x2D#8]

/-- The table form and the linearity of crc8_update (40_checksum.md R111 (b), (c)). -/
def Obligations.CrcUpdateIsLinear : Prop :=
  (∀ prev data : Byte, crc8Update prev data = crc8Update 0x00#8 (prev ^^^ data)) ∧
  (∀ a b d e : Byte, crc8Update (a ^^^ b) (d ^^^ e) = crc8Update a d ^^^ crc8Update b e) ∧
  crc8Update 0x00#8 0x00#8 = 0x00#8

/-- The polynomial form of crc8_update (40_checksum.md R111 (a)): the remainder of p(x) x^8 by g(x) over GF(2), with p
the polynomial of prev XOR data. -/
def Obligations.CrcIsPolynomialRemainder : Prop :=
  ∀ prev data : Byte,
    toPoly (crc8Update prev data) =
      (toPoly (prev ^^^ data) * Polynomial.X ^ 8).modByMonic crcPoly

/-- The empty list, the residue and concatenation (40_checksum.md R112 (a) to (c)). -/
def Obligations.CrcResidueAndConcatenation : Prop :=
  ∀ (c : Byte) (l l' : List Byte),
    crc8 c [] = c ∧ crc8 c (l ++ [crc8 c l]) = 0x00#8 ∧ crc8 c (l ++ l') = crc8 (crc8 c l) l'

/-- Any one corrupted byte changes the checksum (40_checksum.md R112 (d)). -/
def Obligations.CrcDetectsOneCorruptedByte : Prop :=
  ∀ (c b b' : Byte) (l l' : List Byte), b ≠ b' → crc8 c (l ++ b :: l') ≠ crc8 c (l ++ b' :: l')

/-! ## The segmenter -/

/-- The invariants (a) to (f) of chunkPlan(wlen, rlen) (41_segmenter.md R143), and that a request within MAX_TOTAL
touches BUF indices below MAX_TOTAL only. -/
def Obligations.ChunkPlanInvariants : Prop :=
  ∀ (p : Params) (w r : Nat), p.legal = true →
    let cs := chunkPlan p w r
    (cs.map Chunk.len).sum = w + r ∧
    (∀ c ∈ cs, 1 ≤ c.len ∧ (c.dir = .W → c.len ≤ p.maxTx) ∧ (c.dir = .R → c.len ≤ p.maxRx)) ∧
    (∀ j c, cs[j]? = some c → c.start = ((cs.take j).map Chunk.len).sum) ∧
    (∃ ws rs, cs = ws ++ rs ∧ (∀ c ∈ ws, c.dir = .W) ∧ (∀ c ∈ rs, c.dir = .R) ∧
      ws.length = (w + p.maxTx - 1) / p.maxTx ∧ rs.length = (r + p.maxRx - 1) / p.maxRx ∧
      (∀ j c, ws[j]? = some c → j + 1 < ws.length → c.len = p.maxTx) ∧
      (∀ j c, rs[j]? = some c → j + 1 < rs.length → c.len = p.maxRx)) ∧
    (∀ j c, cs[j]? = some c → (c.final = true ↔ j + 1 = cs.length)) ∧
    (w + r ≤ p.maxTotal → ∀ c ∈ cs, c.start + c.len ≤ p.maxTotal ∧ p.maxTotal ≤ p.bufCap)

/-- The edge cases of the segmenter (41_segmenter.md R144): nothing to move; a part of exactly its limit; a part of
its limit and one byte. -/
def Obligations.ChunkPlanEdgeCases : Prop :=
  ∀ p : Params, p.legal = true →
    chunkPlan p 0 0 = [] ∧
    chunkPlan p p.maxTx 0 = [{ dir := .W, start := 0, len := p.maxTx, final := true }] ∧
    chunkPlan p 0 p.maxRx = [{ dir := .R, start := 0, len := p.maxRx, final := true }] ∧
    chunkPlan p (p.maxTx + 1) 0 =
      [{ dir := .W, start := 0, len := p.maxTx, final := false },
       { dir := .W, start := p.maxTx, len := 1, final := true }] ∧
    chunkPlan p 0 (p.maxRx + 1) =
      [{ dir := .R, start := 0, len := p.maxRx, final := false },
       { dir := .R, start := p.maxRx, len := 1, final := true }]

/-! ## The micro-steps -/

/-- The address phase (42_transaction_driver.md R163): startCycle with the address bytes; on Ok they are folded with
PEC on, seq.i is 0 and the data phase follows; else the failure is recorded and AbortStop follows. -/
def Obligations.AddressPhase : Prop :=
  ∀ (s : State) (c : Chunk) (a : BusAnswer), s.currentChunk = some c → s.seq.phase = .addr →
    let ab := addrBytes s.seq.req.addr s.seq.req.a10 c.dir.rw
    let log := s.busLog ++ [{ request := .startCycle ab, response := some a.resp, data := none }]
    (a.resp = .ok →
      microStep a s = .next
        { s with
          busLog := log
          acc := if s.seq.req.pec = true then crc8 s.acc ab else s.acc
          seq := { s.seq with i := 0, phase := .data } }) ∧
    (a.resp = .noAck →
      microStep a s = .next
        { s with
          busLog := log
          seq := { s.seq with fail := some .deviceNotPresent, phase := .abortStop } }) ∧
    (a.resp = .timeout →
      microStep a s = .next
        { s with
          busLog := log
          seq := { s.seq with fail := some .busTimeout, phase := .abortStop } })

/-- The data phase of a write chunk (42_transaction_driver.md R166): the byte of BUF is sent; on Ok it is folded with
PEC on and seq.i grows, after the last byte with the PEC or the stop phase; else AbortStop. A byte that nothing
has written is the fault UnwrittenRead. -/
def Obligations.WriteDataPhase : Prop :=
  ∀ (s : State) (c : Chunk) (a : BusAnswer), s.currentChunk = some c → s.seq.phase = .data →
    c.dir = .W → c.start + s.seq.i < s.caps.bufCap →
    (s.buf.read (c.start + s.seq.i) = none →
      microStep a s = .fault (.unwrittenRead (c.start + s.seq.i))) ∧
    ∀ b, s.buf.read (c.start + s.seq.i) = some b →
      let log := s.busLog ++ [{ request := .writeByte b, response := some a.resp, data := none }]
      (a.resp = .ok →
        microStep a s = .next
          { s with
            busLog := log
            acc := if s.seq.req.pec = true then crc8Update s.acc b else s.acc
            seq :=
              { s.seq with
                i := s.seq.i + 1
                phase :=
                  if s.seq.i + 1 = c.len then
                    (if s.seq.req.pec = true then .pec else .stop) else .data } }) ∧
      (a.resp = .noAck →
        microStep a s = .next
          { s with
            busLog := log
            seq := { s.seq with fail := some .deviceNotPresent, phase := .abortStop } }) ∧
      (a.resp = .timeout →
        microStep a s = .next
          { s with
            busLog := log
            seq := { s.seq with fail := some .busTimeout, phase := .abortStop } })

/-- The data phase of a read chunk (42_transaction_driver.md R167): readByte with `last` on the cycle's final byte; on
Ok the byte is stored, folded with PEC on, and seq.i grows, after the last byte with the PEC or the stop
phase; else no byte is stored and AbortStop follows. Every other byte of BUF reads as before. -/
def Obligations.ReadDataPhase : Prop :=
  ∀ (s : State) (c : Chunk) (a : BusAnswer), s.currentChunk = some c → s.seq.phase = .data →
    c.dir = .R → c.start + s.seq.i < s.caps.bufCap →
    let last := decide (s.seq.i + 1 = c.len ∧ s.seq.req.pec = false)
    (a.resp = .ok →
      ∃ m : Memory, m.read (c.start + s.seq.i) = some a.byte ∧
        (∀ j, j ≠ c.start + s.seq.i → m.read j = s.buf.read j) ∧
        microStep a s = .next
          { s with
            busLog := s.busLog ++
              [{ request := .readByte last, response := some .ok, data := some a.byte }]
            buf := m
            acc := if s.seq.req.pec = true then crc8Update s.acc a.byte else s.acc
            seq :=
              { s.seq with
                i := s.seq.i + 1
                phase :=
                  if s.seq.i + 1 = c.len then
                    (if s.seq.req.pec = true then .pec else .stop) else .data } }) ∧
    (a.resp = .noAck →
      microStep a s = .next
        { s with
          busLog := s.busLog ++
            [{ request := .readByte last, response := some .noAck, data := none }]
          seq := { s.seq with fail := some .deviceNotPresent, phase := .abortStop } }) ∧
    (a.resp = .timeout →
      microStep a s = .next
        { s with
          busLog := s.busLog ++
            [{ request := .readByte last, response := some .timeout, data := none }]
          seq := { s.seq with fail := some .busTimeout, phase := .abortStop } })

/-- The PEC phase of a write chunk (42_transaction_driver.md R168): acc is sent and not folded; on Ok the stop phase
follows, else AbortStop. -/
def Obligations.WritePecPhase : Prop :=
  ∀ (s : State) (c : Chunk) (a : BusAnswer), s.currentChunk = some c → s.seq.phase = .pec →
    c.dir = .W →
    let log :=
      s.busLog ++ [{ request := .writeByte s.acc, response := some a.resp, data := none }]
    (a.resp = .ok →
      microStep a s = .next { s with busLog := log, seq := { s.seq with phase := .stop } }) ∧
    (a.resp = .noAck →
      microStep a s = .next
        { s with
          busLog := log
          seq := { s.seq with fail := some .deviceNotPresent, phase := .abortStop } }) ∧
    (a.resp = .timeout →
      microStep a s = .next
        { s with
          busLog := log
          seq := { s.seq with fail := some .busTimeout, phase := .abortStop } })

/-- The PEC phase of a read chunk (42_transaction_driver.md R169): the byte received is compared with acc, neither
stored nor folded; a mismatch is recorded and the normal stop follows; a failed read goes to AbortStop. -/
def Obligations.ReadPecPhase : Prop :=
  ∀ (s : State) (c : Chunk) (a : BusAnswer), s.currentChunk = some c → s.seq.phase = .pec →
    c.dir = .R →
    (a.resp = .ok →
      microStep a s = .next
        { s with
          busLog := s.busLog ++
            [{ request := .readByte true, response := some .ok, data := some a.byte }]
          seq :=
            { s.seq with
              fail := if a.byte = s.acc then s.seq.fail else some .checksumMismatch
              phase := .stop } }) ∧
    (a.resp = .noAck →
      microStep a s = .next
        { s with
          busLog := s.busLog ++
            [{ request := .readByte true, response := some .noAck, data := none }]
          seq := { s.seq with fail := some .deviceNotPresent, phase := .abortStop } }) ∧
    (a.resp = .timeout →
      microStep a s = .next
        { s with
          busLog := s.busLog ++
            [{ request := .readByte true, response := some .timeout, data := none }]
          seq := { s.seq with fail := some .busTimeout, phase := .abortStop } })

/-- The stop phase with the end of its chunk and, after the last chunk or a failure, of the request
(42_transaction_driver.md R170, R172; 43_facade.md R201): a chunk that did not fail is counted and the next one's
address phase or Success follows; a failed stop ends the request with its failure; a mismatching chunk is counted
and ends the request, whatever the stop's answer; a failure recorded before the stop is not replaced. -/
def Obligations.StopPhase : Prop :=
  ∀ (s : State) (c : Chunk) (a : BusAnswer), s.currentChunk = some c → s.seq.phase = .stop →
    let log := s.busLog ++ [{ request := .stopCycle, response := some a.resp, data := none }]
    let tx := if c.dir = .W then s.seq.tx + c.len else s.seq.tx
    let rx := if c.dir = .R then s.seq.rx + c.len else s.seq.rx
    (s.seq.fail = none → a.resp = .ok → c.final = false →
      microStep a s = .next
        { s with
          busLog := log
          seq :=
            { s.seq with
              tx := tx, rx := rx, k := s.seq.k + 1, i := 0, fail := none, phase := .addr } }) ∧
    (s.seq.fail = none → a.resp = .ok → c.final = true →
      microStep a s = .next
        { s with
          busLog := log, code := .success, busy := false
          xferCount := BitVec.ofNat 16 (tx + rx), rxCount := BitVec.ofNat 16 rx
          seq := { s.seq with tx := tx, rx := rx, phase := .idle } }) ∧
    (s.seq.fail = none → ∀ code fail,
      (a.resp = .noAck ∧ code = .deviceNotPresent ∧ fail = .deviceNotPresent ∨
        a.resp = .timeout ∧ code = .busTimeout ∧ fail = .busTimeout) →
      microStep a s = .next
        { s with
          busLog := log, code := code, busy := false
          xferCount := if c.dir = .W then 0#16 else BitVec.ofNat 16 (s.seq.tx + s.seq.rx)
          rxCount := if c.dir = .W then 0#16 else BitVec.ofNat 16 s.seq.rx
          seq := { s.seq with fail := some fail, phase := .idle } }) ∧
    (s.seq.fail = some .checksumMismatch →
      microStep a s = .next
        { s with
          busLog := log, code := .checksumMismatch, busy := false
          xferCount := BitVec.ofNat 16 (s.seq.tx + (s.seq.rx + c.len))
          rxCount := BitVec.ofNat 16 (s.seq.rx + c.len)
          seq := { s.seq with rx := s.seq.rx + c.len, phase := .idle } }) ∧
    (∀ code fail,
      (fail = .deviceNotPresent ∧ code = .deviceNotPresent ∨
        fail = .busTimeout ∧ code = .busTimeout) →
      s.seq.fail = some fail →
      microStep a s = .next
        { s with
          busLog := log, code := code, busy := false
          xferCount := if c.dir = .W then 0#16 else BitVec.ofNat 16 (s.seq.tx + s.seq.rx)
          rxCount := if c.dir = .W then 0#16 else BitVec.ofNat 16 s.seq.rx
          seq := { s.seq with phase := .idle } })

/-- The AbortStop phase with the end of the request (42_transaction_driver.md R171, R172; 43_facade.md R201): exactly
one stopCycle, its response ignored; the request ends with the recorded failure, with counts 0 after a write
chunk and the completed chunks' counts after a read chunk. -/
def Obligations.AbortStopPhase : Prop :=
  ∀ (s : State) (c : Chunk) (a : BusAnswer), s.currentChunk = some c →
    s.seq.phase = .abortStop →
    ∀ code fail,
      (fail = .deviceNotPresent ∧ code = .deviceNotPresent ∨
        fail = .busTimeout ∧ code = .busTimeout) →
      s.seq.fail = some fail →
      microStep a s = .next
        { s with
          busLog := s.busLog ++
            [{ request := .stopCycle, response := some a.resp, data := none }]
          code := code, busy := false
          xferCount := if c.dir = .W then 0#16 else BitVec.ofNat 16 (s.seq.tx + s.seq.rx)
          rxCount := if c.dir = .W then 0#16 else BitVec.ofNat 16 s.seq.rx
          seq := { s.seq with phase := .idle } }

/-- The frame of a micro-step: CMD, OVR, RESULT, the capabilities, the host and the model's own fields never change;
acc changes only with PEC on; the latched request and the chunk plan stay; BUF changes in one way only, the byte
that an Ok-answered data read stores at the current index of a read chunk. -/
def Obligations.MicroStepFrame : Prop :=
  ∀ (s t : State) (a : BusAnswer), microStep a s = .next t →
    t.cmd = s.cmd ∧ t.ovr = s.ovr ∧ t.result = s.result ∧ t.caps = s.caps ∧ t.host = s.host ∧
    t.answers = s.answers ∧ t.schedule = s.schedule ∧ t.draws = s.draws ∧ t.powerOn = s.powerOn ∧
    t.seq.req = s.seq.req ∧ t.seq.chunks = s.seq.chunks ∧
    (s.seq.req.pec = false → t.acc = s.acc) ∧
    (∀ c, s.currentChunk = some c → s.seq.phase = .data → c.dir = .R → a.resp = .ok →
      ∀ j, j ≠ c.start + s.seq.i → t.buf.read j = s.buf.read j) ∧
    ((∀ c, s.currentChunk = some c → ¬(s.seq.phase = .data ∧ c.dir = .R ∧ a.resp = .ok)) →
      ∀ j, t.buf.read j = s.buf.read j)

/-- While the phase is not Idle, a micro-step issues exactly one downstream request, answered by the collaborator's
answer (42_transaction_driver.md R160, 20_memory.md R74). With no host statement left, a step of the machine
while BUSY = 1 is that micro-step, answered by the first of the given answers, which it takes. That a list in the
state gives the answers is the model's choice (log entry 6). -/
def Obligations.MicroStepIssuesOneRequest : Prop :=
  (∀ (s t : State) (a : BusAnswer), s.seq.phase ≠ .idle → microStep a s = .next t →
    ∃ e : BusEvent, t.busLog = s.busLog ++ [e] ∧ e.response = some a.resp ∧
      e.request ≠ .busReset ∧
      (e.data = some a.byte ∧ a.resp = .ok ∧ (∃ last, e.request = .readByte last) ∨
        e.data = none)) ∧
  ∀ (s : State) (a : BusAnswer) (rest : List BusAnswer), s.powerOn = false →
    s.host.prog.length ≤ s.host.pc → s.busy = true → s.seq.phase ≠ .idle →
    s.answers = a :: rest → step s = microStep a { s with answers := rest }

/-! ## The machine -/

/-- Who moves (00_scope.md R16; 20_memory.md R67; 70_reset_and_hazards.md R252, R267): an applied power-on reset
first; the only agent that can move; the scheduled one where both can; and nobody where the run is over. That a
schedule in the state decides, and that a step of a finished run changes nothing, are the model's choices (log
entries 7, 10 and 12). -/
def Obligations.WhoMovesNext : Prop :=
  ∀ s : State,
    (s.powerOn = true → step s = .next s.powerOnReset) ∧
    (s.powerOn = false →
      (s.host.prog.length ≤ s.host.pc → s.busy = false → step s = .next s) ∧
      (∀ st, s.host.prog[s.host.pc]? = some st → s.busy = false →
        step s = hostStmt st { s with host := { s.host with pc := s.host.pc + 1 } }) ∧
      (s.busy = true → s.seq.phase ≠ .idle →
        (s.host.prog.length ≤ s.host.pc → step s = sequencerStep s) ∧
        ∀ st rest, s.host.prog[s.host.pc]? = some st →
          (s.schedule = .host :: rest →
            step s = hostStmt st
              { s with schedule := rest, host := { s.host with pc := s.host.pc + 1 } }) ∧
          (s.schedule = .sequencer :: rest → step s = sequencerStep { s with schedule := rest })))

/-- The state right after power-on reset meets the invariant, for every legal choice of the parameters. -/
def Obligations.ResetMeetsInvariant : Prop :=
  (∀ p : Params, p.legal = true → StateInv (State.resetWith p)) ∧ StateInv State.reset

/-- Every step keeps the invariant: BUF stays in canonical form inside BUF_CAP, BUSY = 1 exactly while the phase is
not Idle, and while BUSY = 1 the sequencer is coherent with its latched request. -/
def Obligations.StepKeepsInvariant : Prop :=
  ∀ s t : State, StateInv s → step s = .next t → StateInv t

/-- From a state that meets the invariant a step is never refused, and it faults only as 60_exceptions.md R237 says:
a host access of an unsupported kind, or a sequencer or CRC-command read of a BUF byte that nothing has
written. -/
def Obligations.StepStopsOnlyAsSpecified : Prop :=
  ∀ s : State, StateInv s →
    (∀ r, step s ≠ .refused r) ∧
    ∀ f, step s = .fault f →
      (∃ off width, f = .hostAccessError off width) ∨
      ∃ i < s.caps.bufCap, f = .unwrittenRead i ∧ s.buf.read i = none

/-- No step changes a capability or what its register shows (10_state.md R32). -/
def Obligations.CapabilitiesNeverChange : Prop :=
  ∀ s t : State, step s = .next t →
    t.caps = s.caps ∧ t.readReg 0x018#9 = s.readReg 0x018#9 ∧ t.readReg 0x01C#9 = s.readReg 0x01C#9 ∧
      t.readReg 0x020#9 = s.readReg 0x020#9 ∧ t.readReg 0x024#9 = s.readReg 0x024#9

/-- The state after power-on reset (70_reset_and_hazards.md R250), as the state of a block built with parameters p
and as a step that applies power-on reset in any state (R252): every register, every BUF byte unwritten, phase
Idle, and no downstream request. State.reset has the default parameters. That power-on reset is an input which the
next step applies and clears, and that the record of the port and the host stay, are the model's choices (log
entry 12). -/
def Obligations.PowerOnResetValues : Prop :=
  State.reset.caps = { maxTx := 33, maxRx := 33, maxTotal := 66, bufCap := 256, hasPec := true } ∧
  (∀ p : Params, (State.resetWith p).busLog = []) ∧
  ∀ s : State, s.powerOn = true → s.caps.legal = true →
    ∃ t, step s = .next t ∧ t.busLog = s.busLog ∧ t.host = s.host ∧ t.powerOn = false ∧
      ∀ u ∈ [t, State.resetWith s.caps],
        u.caps = s.caps ∧ u.cmd = 0x00000000#32 ∧ u.code = .success ∧ u.busy = false ∧
        u.ovr = false ∧ u.xferCount = 0#16 ∧ u.rxCount = 0#16 ∧ u.result = 0#8 ∧ u.acc = 0x00#8 ∧
        u.seq.phase = .idle ∧ (∀ i, u.buf.read i = none) ∧
        u.readReg 0x004#9 = (if s.caps.hasPec = true then 0x00010000#32 else 0#32) ∧
        (u.readReg 0x018#9).toNat = s.caps.maxTx ∧ (u.readReg 0x01C#9).toNat = s.caps.maxRx ∧
        (u.readReg 0x020#9).toNat = s.caps.maxTotal ∧
        (u.readReg 0x024#9).toNat = s.caps.bufCap ∧
        ∀ off : BitVec 9, 0x028 ≤ off.toNat → off.toNat ≤ 0x0FC → u.readReg off = 0#32

/-! ## Requests -/

/-- A request takes at most len + 2 + pec micro-steps for each chunk (42_transaction_driver.md R175): its bound is
that sum at acceptance, which is at most wlen + rlen + (2 + pec) per chunk, and every micro-step lowers it. -/
def Obligations.MicroStepsAreBounded : Prop :=
  (∀ (s t : State) (i : Instr) (q : Request), s.caps.legal = true → s.busy = false →
    startOf i = some q → exec i s = .next t → t.busy = true →
    t.remaining = (t.seq.chunks.map (chunkCost q.pec)).sum ∧
    t.remaining = q.wlen.toNat + q.rlen.toNat + (2 + pecCost q.pec) * t.seq.chunks.length) ∧
  ∀ (s t : State) (a : BusAnswer), StateInv s → s.busy = true → microStep a s = .next t →
    t.remaining < s.remaining

/-- Every request whose write part has been written completes, whatever the collaborator answers, within its bound of
micro-steps (42_transaction_driver.md R175), and its outcome is one of the four codes a request can end with. -/
def Obligations.EveryRequestCompletes : Prop :=
  ∀ (s : State) (as : List BusAnswer), StateInv s → s.busy = true →
    (∀ i < s.seq.req.wlen.toNat, s.buf.read i ≠ none) → s.remaining ≤ as.length →
    ∃ t, runBus as s = .next t ∧ t.busy = false ∧ t.seq.phase = .idle ∧
      t.code ∈ [.success, .deviceNotPresent, .busTimeout, .checksumMismatch]

/-- A write chunk that does not fail (42_transaction_driver.md R174): from its address phase, with every answer Ok, its
len + 2 + pec micro-steps issue exactly its cycle, with the PEC byte the fold of the address and data bytes into
acc; acc ends as that fold; BUF stays; and the chunk ends counted, with the request complete after the final
chunk. -/
def Obligations.WriteChunkCycle : Prop :=
  ∀ (s : State) (c : Chunk) (bs : List Byte) (as : List BusAnswer),
    s.currentChunk = some c → c.dir = .W → s.seq.phase = .addr → s.seq.fail = none →
    c.len = bs.length → 1 ≤ c.len → c.start + c.len ≤ s.caps.bufCap → s.buf.holds c.start bs →
    as.length = chunkCost s.seq.req.pec c → (∀ a ∈ as, a.resp = .ok) →
    let sum := crc8 s.acc (addrBytes s.seq.req.addr s.seq.req.a10 0#1 ++ bs)
    ∃ t, runBus as s = .next t ∧
      t.requests = s.requests ++ writeCycle s.seq.req bs sum ∧
      t.acc = (if s.seq.req.pec = true then sum else s.acc) ∧
      (∀ j, t.buf.read j = s.buf.read j) ∧ t.seq.tx = s.seq.tx + c.len ∧ t.seq.rx = s.seq.rx ∧
      (c.final = true → t.busy = false ∧ t.seq.phase = .idle ∧ t.code = .success) ∧
      (c.final = false →
        t.busy = s.busy ∧ t.seq.phase = .addr ∧ t.seq.k = s.seq.k + 1 ∧ t.seq.fail = none)

/-- A read chunk that does not fail on the bus (42_transaction_driver.md R174): from its address phase, with every
answer Ok, the data bytes ds and, with PEC on, the PEC byte p, its len + 2 + pec micro-steps issue exactly its
cycle and store ds at the chunk's place; with PEC off or p the fold of the address and data bytes into acc the
chunk ends counted, and with another p the request ends as ChecksumMismatch with the chunk counted. -/
def Obligations.ReadChunkCycle : Prop :=
  ∀ (s : State) (c : Chunk) (ds : List Byte) (p x y : Byte),
    s.currentChunk = some c → c.dir = .R → s.seq.phase = .addr → s.seq.fail = none →
    c.len = ds.length → 1 ≤ c.len → c.start + c.len ≤ s.caps.bufCap →
    let sum := crc8 s.acc (addrBytes s.seq.req.addr s.seq.req.a10 1#1 ++ ds)
    let ok := fun b => ({ resp := .ok, byte := b } : BusAnswer)
    let as := [ok x] ++ ds.map ok ++ (if s.seq.req.pec = true then [ok p] else []) ++ [ok y]
    as.length = chunkCost s.seq.req.pec c ∧
    ∃ t, runBus as s = .next t ∧
      t.requests = s.requests ++ readCycle s.seq.req c.len ∧
      t.acc = (if s.seq.req.pec = true then sum else s.acc) ∧
      t.buf.holds c.start ds ∧
      (∀ j, j < c.start ∨ c.start + c.len ≤ j → t.buf.read j = s.buf.read j) ∧
      t.seq.tx = s.seq.tx ∧ t.seq.rx = s.seq.rx + c.len ∧
      (s.seq.req.pec = false ∨ p = sum →
        (c.final = true → t.busy = false ∧ t.seq.phase = .idle ∧ t.code = .success) ∧
        (c.final = false →
          t.busy = s.busy ∧ t.seq.phase = .addr ∧ t.seq.k = s.seq.k + 1 ∧ t.seq.fail = none)) ∧
      (s.seq.req.pec = true → p ≠ sum →
        t.busy = false ∧ t.seq.phase = .idle ∧ t.code = .checksumMismatch)

/-- The counts that a request ends with (43_facade.md R197 to R199, R201; 60_exceptions.md R222): on Success WLEN + RLEN
and RLEN; after a failed write chunk 0 and 0; after a failed read chunk WLEN + RX_COUNT and the full chunks read
before it, and after a mismatching read chunk that chunk as well. -/
def Obligations.CountsAtCompletion : Prop :=
  ∀ (s t : State) (a : BusAnswer) (c : Chunk), StateInv s → s.busy = true → s.currentChunk = some c →
    microStep a s = .next t → t.busy = false →
    let wlen := s.seq.req.wlen.toNat
    let rlen := s.seq.req.rlen.toNat
    let writeChunks := (wlen + s.caps.maxTx - 1) / s.caps.maxTx
    (t.code = .success → t.xferCount.toNat = wlen + rlen ∧ t.rxCount.toNat = rlen) ∧
    (t.code ≠ .success → c.dir = .W → t.xferCount = 0#16 ∧ t.rxCount = 0#16) ∧
    (t.code ≠ .success → c.dir = .R →
      t.xferCount.toNat = wlen + t.rxCount.toNat ∧ writeChunks ≤ s.seq.k ∧
      (t.code ≠ .checksumMismatch →
        t.rxCount.toNat = (s.seq.k - writeChunks) * s.caps.maxRx) ∧
      (t.code = .checksumMismatch →
        t.rxCount.toNat = min rlen ((s.seq.k - writeChunks + 1) * s.caps.maxRx)))

/-- A write to an address that does not acknowledge (43_facade.md R204 (f)): DeviceNotPresent, both counts 0, and
exactly two downstream requests, startCycle and the abort stopCycle, whatever the stop's answer. -/
def Obligations.UnacknowledgedWrite : Prop :=
  ∀ (s u : State) (pec a10 : Bool) (addr : BitVec 10) (wlen : BitVec 8) (a a' : BusAnswer),
    s.busy = false → exec (.startW pec a10 addr wlen) s = .next u → u.busy = true →
    a.resp = .noAck →
    ∃ t, runBus [a, a'] u = .next t ∧
      t.code = .deviceNotPresent ∧ t.busy = false ∧ t.xferCount = 0#16 ∧ t.rxCount = 0#16 ∧
      t.busLog = s.busLog ++
        [{ request := .startCycle (addrBytes addr a10 0#1), response := some .noAck, data := none },
         { request := .stopCycle, response := some a'.resp, data := none }]

/-- The outcome of a request depends only on its command, the parameters, the bytes of its write part and the
collaborator's answers (10_state.md R47): two states that agree on these accept a START alike and then take
micro-steps that agree, with the same downstream request each. -/
def Obligations.RequestDependsOnlyOnItsInputs : Prop :=
  (∀ (s s' t : State) (i : Instr) (q : Request), startOf i = some q → s.busy = false →
    s'.busy = false → s.caps = s'.caps →
    (∀ j < q.wlen.toNat, s.buf.read j = s'.buf.read j) → exec i s = .next t → t.code ≠ .illegalCommand →
    ∃ t', exec i s' = .next t' ∧ t.code = t'.code ∧ t.busy = t'.busy ∧
      t.xferCount = t'.xferCount ∧ t.rxCount = t'.rxCount ∧
      (t.busy = true → RequestAgrees t t')) ∧
  ∀ (s s' t : State) (a : BusAnswer), StateInv s → s.busy = true → RequestAgrees s s' →
    microStep a s = .next t →
    ∃ t' e, microStep a s' = .next t' ∧ RequestAgrees t t' ∧
      t.busLog = s.busLog ++ [e] ∧ t'.busLog = s'.busLog ++ [e]

/-! ## The host port -/

/-- A 32-bit read gives the register at the offset (10_state.md R20 to R28): STATUS field by field with the numbers of
30_encoding.md R90, every other register zero-extended, and 0 at a reserved offset. -/
def Obligations.RegisterReads : Prop :=
  ∀ s : State,
    (∀ (off : BitVec 9) (n : Nat), off.toNat < 0x100 → off.toNat % 4 = 0 →
      hostStmt (r32 off n) s = .next (s.setTemp n (s.readReg off))) ∧
    s.readReg 0x000#9 = s.cmd ∧
    (let w := s.readReg 0x004#9
     w.toNat % 16 =
        (match s.code with
         | .success => 0
         | .deviceNotPresent => 1
         | .busTimeout => 2
         | .checksumMismatch => 3
         | .unsupportedLength => 4
         | .notImplemented => 5
         | .illegalCommand => 6) ∧
      w.getLsbD 8 = s.busy ∧ w.getLsbD 9 = s.ovr ∧ w.getLsbD 16 = s.caps.hasPec ∧
      ∀ b, 4 ≤ b → b ≠ 8 → b ≠ 9 → b ≠ 16 → w.getLsbD b = false) ∧
    (s.readReg 0x008#9).toNat = s.xferCount.toNat ∧ (s.readReg 0x00C#9).toNat = s.rxCount.toNat ∧
    (s.readReg 0x010#9).toNat = s.result.toNat ∧ (s.readReg 0x014#9).toNat = s.acc.toNat ∧
    ∀ off : BitVec 9, 0x028 ≤ off.toNat → off.toNat ≤ 0x0FC → off.toNat % 4 = 0 →
      s.readReg off = 0#32

/-- A host write to a register other than CMD has no effect (10_state.md R28, R29). -/
def Obligations.ReadOnlyRegistersIgnoreWrites : Prop :=
  ∀ (s : State) (off : BitVec 9) (v : Word), 0x004 ≤ off.toNat → off.toNat ≤ 0x0FC →
    off.toNat % 4 = 0 → hostStmt (w32 off v) s = .next s

/-- A host write to BUF (20_memory.md R64): ignored at a reserved offset; ignored with OVR set while BUSY = 1; else
the byte is stored and every other byte of BUF reads as before. -/
def Obligations.BufferWrites : Prop :=
  ∀ (s : State) (off : BitVec 9) (b : Byte) (i : Nat), off.toNat = 0x100 + i →
    (s.caps.bufCap ≤ i → hostStmt (w8 off b) s = .next s) ∧
    (i < s.caps.bufCap → s.busy = true → hostStmt (w8 off b) s = .next { s with ovr := true }) ∧
    (i < s.caps.bufCap → s.busy = false →
      ∃ m : Memory, hostStmt (w8 off b) s = .next { s with buf := m } ∧ m.read i = some b ∧
        ∀ j, j ≠ i → m.read j = s.buf.read j)

/-- A host read of BUF (20_memory.md R65; 10_state.md R33; 70_reset_and_hazards.md R251): the byte while BUSY = 0; a
free value while BUSY = 1 or when nothing has written the byte; 0 at a reserved offset. That the free value comes
from a counter is the model's form (log entry 5), and the reserved offset while BUSY = 1 its choice (log entry
23). -/
def Obligations.BufferReads : Prop :=
  ∀ (s : State) (off : BitVec 9) (i n : Nat), off.toNat = 0x100 + i →
    (s.caps.bufCap ≤ i → hostStmt (r8 off n) s = .next (s.setTemp n 0#32)) ∧
    (i < s.caps.bufCap → s.busy = false → ∀ b, s.buf.read i = some b →
      hostStmt (r8 off n) s = .next (s.setTemp n (b.setWidth 32))) ∧
    (i < s.caps.bufCap → s.busy = true ∨ s.buf.read i = none →
      hostStmt (r8 off n) s = .next
        ({ s with draws := s.draws + 1 }.setTemp n ((Config.freeByte s.draws).setWidth 32)))

/-- Every access that is neither a 32-bit aligned register access nor an 8-bit BUF access is the fault
HostAccessError(offset, width), read or write (20_memory.md R63, 10_state.md R45). -/
def Obligations.UnsupportedAccessesFault : Prop :=
  ∀ (s : State) (width : Nat) (off : BitVec 9) (v : Word) (n : Nat),
    ¬(width = 32 ∧ off.toNat < 0x100 ∧ off.toNat % 4 = 0) → ¬(width = 8 ∧ 0x100 ≤ off.toNat) →
    hostStmt (.write width off v) s = .fault (.hostAccessError off width) ∧
    hostStmt (.read width off n) s = .fault (.hostAccessError off width)

/-- While BUSY = 1 no host step touches the request in progress or any register but OVR (42_transaction_driver.md R173,
43_facade.md R202): beside OVR only the host itself and the count of free values change. -/
def Obligations.HostCannotDisturbRequest : Prop :=
  ∀ s t : State, s.busy = true → hostStep s = .next t →
    t = { s with ovr := t.ovr, host := t.host, draws := t.draws } ∧ (s.ovr = true → t.ovr = true)

/-- No host read changes any state of the block (20_memory.md R66): only the temporary read into changes and, for a
free value, their count. -/
def Obligations.HostReadsHaveNoSideEffect : Prop :=
  ∀ (s t : State) (width : Nat) (off : BitVec 9) (n : Nat),
    hostStmt (.read width off n) s = .next t →
    ∃ v, t = { s with draws := t.draws, host := { s.host with temps := t.host.temps } } ∧
      t.temp n = v ∧ ∀ m, m ≠ n → t.temp m = s.temp m

/-- The host's control flow (30_encoding.md R93): goto, if = and if ≠ on a field of a temporary, halt, and the two
statements of WAIT. Labels as indices are the model's form (log entry 9). -/
def Obligations.HostControlFlow : Prop :=
  ∀ (s : State) (t hi lo v target : Nat),
    let goTo := fun n => ({ s with host := { s.host with pc := n } } : State)
    hostStmt (.goto target) s = .next (goTo target) ∧
    hostStmt .halt s = .next (goTo s.host.prog.length) ∧
    ((s.temp t).toNat / 2 ^ lo % 2 ^ (hi + 1 - lo) = v →
      hostStmt (.ifEq t hi lo v target) s = .next (goTo target) ∧
      hostStmt (.ifNe t hi lo v target) s = .next s) ∧
    ((s.temp t).toNat / 2 ^ lo % 2 ^ (hi + 1 - lo) ≠ v →
      hostStmt (.ifEq t hi lo v target) s = .next s ∧
      hostStmt (.ifNe t hi lo v target) s = .next (goTo target)) ∧
    ∀ l, waitStmts l t = [.read 32 0x004#9 t, .ifEq t 8 8 1 l]
end

