-- ==== Sys2Proof/Laws/Memory.lean ====
section
/-! SUPPORT. The laws of maps in canonical form and of BUF: reads after writes, the canonical form, and
one spec lemma for each BUF access. -/

namespace Sys2Proof.Machine

variable {α : Type}

/-! ## Cells -/

/-- A read after a write to the same key gives the value written. -/
@[simp] theorem cellRead_cellWrite_same (m : List (Nat × α)) (a : Nat) (v : α) :
    cellRead (cellWrite m a v) a = some v := by
  induction m with
  | nil => simp [cellWrite, cellRead]
  | cons c m ih =>
    obtain ⟨k, w⟩ := c
    unfold cellWrite
    split_ifs with h1 h2
    · simp [cellRead]
    · simp [cellRead]
    · have : ¬ k = a := fun h => h2 h.symm
      simp [cellRead, this, ih]

/-- A write leaves every other key alone. -/
theorem cellRead_cellWrite_other (m : List (Nat × α)) {a b : Nat} (v : α) (h : b ≠ a) :
    cellRead (cellWrite m a v) b = cellRead m b := by
  induction m with
  | nil => simp [cellWrite, cellRead, Ne.symm h]
  | cons c m ih =>
    obtain ⟨k, w⟩ := c
    unfold cellWrite
    split_ifs with h1 h2
    · simp [cellRead, Ne.symm h]
    · subst h2; simp [cellRead, Ne.symm h]
    · simp only [cellRead, ih]

/-- The keys listed after a write: those listed before, and the key written. -/
theorem mem_cellWrite {m : List (Nat × α)} {a : Nat} {v : α} {c : Nat × α}
    (h : c ∈ cellWrite m a v) : c = (a, v) ∨ c ∈ m := by
  induction m with
  | nil => simpa [cellWrite] using h
  | cons d m ih =>
    obtain ⟨k, w⟩ := d
    unfold cellWrite at h
    split_ifs at h
    · simpa using h
    · rcases List.mem_cons.mp h with h | h
      · exact .inl h
      · exact .inr (List.mem_cons_of_mem _ h)
    · rcases List.mem_cons.mp h with h | h
      · exact .inr (by simp [h])
      · exact (ih h).imp id (List.mem_cons_of_mem _)

/-- Rising keys, said of the head and the rest. -/
theorem cellsRising_cons {k : Nat} {w : α} {m : List (Nat × α)} :
    cellsRising ((k, w) :: m) = true ↔ (∀ c ∈ m, k < c.1) ∧ cellsRising m = true := by
  induction m generalizing k w with
  | nil => simp [cellsRising]
  | cons d m ih =>
    obtain ⟨l, x⟩ := d
    rw [cellsRising, Bool.and_eq_true, decide_eq_true_iff]
    constructor
    · rintro ⟨hkl, hr⟩
      refine ⟨fun c hc => ?_, hr⟩
      rcases List.mem_cons.mp hc with rfl | hc
      · exact hkl
      · exact hkl.trans ((ih.mp hr).1 c hc)
    · rintro ⟨hall, hr⟩
      exact ⟨hall (l, x) (by simp), hr⟩

/-- A write keeps the canonical form. -/
theorem cellsRising_cellWrite {m : List (Nat × α)} (h : cellsRising m = true) (a : Nat) (v : α) :
    cellsRising (cellWrite m a v) = true := by
  induction m with
  | nil => rfl
  | cons d m ih =>
    obtain ⟨k, w⟩ := d
    obtain ⟨hall, hr⟩ := cellsRising_cons.mp h
    unfold cellWrite
    split_ifs with h1 h2
    · exact cellsRising_cons.mpr ⟨fun c hc => by
        rcases List.mem_cons.mp hc with rfl | hc
        · exact h1
        · exact h1.trans (hall c hc), h⟩
    · subst h2; exact cellsRising_cons.mpr ⟨hall, hr⟩
    · refine cellsRising_cons.mpr ⟨fun c hc => ?_, ih hr⟩
      rcases mem_cellWrite hc with rfl | hc
      · exact Nat.lt_of_le_of_ne (Nat.le_of_not_lt h1) (fun e => h2 e.symm)
      · exact hall c hc

/-- A key that reads as a value is listed. -/
theorem mem_of_cellRead {m : List (Nat × α)} {a : Nat} {v : α} (h : cellRead m a = some v) :
    (a, v) ∈ m := by
  induction m with
  | nil => simp [cellRead] at h
  | cons d m ih =>
    obtain ⟨k, w⟩ := d
    unfold cellRead at h
    split_ifs at h with hk
    · simp_all
    · exact List.mem_cons_of_mem _ (ih h)

/-- Maps in canonical form that read alike are equal: the form is canonical. -/
theorem eq_of_cellRead_eq {m n : List (Nat × α)} (hm : cellsRising m = true)
    (hn : cellsRising n = true) (h : ∀ a, cellRead m a = cellRead n a) : m = n := by
  induction m generalizing n with
  | nil =>
    cases n with
    | nil => rfl
    | cons d n => simpa [cellRead] using h d.1
  | cons c m ih =>
    obtain ⟨k, w⟩ := c
    obtain ⟨hk, hm'⟩ := cellsRising_cons.mp hm
    cases n with
    | nil => simpa [cellRead] using h k
    | cons d n =>
      obtain ⟨l, x⟩ := d
      obtain ⟨hl, hn'⟩ := cellsRising_cons.mp hn
      have hkl : k = l := by
        by_contra hne
        have h1 : cellRead n k = some w := by simpa [cellRead, Ne.symm hne] using (h k).symm
        have h2 : cellRead m l = some x := by simpa [cellRead, hne] using h l
        have := hl _ (mem_of_cellRead h1)
        have := hk _ (mem_of_cellRead h2)
        simp only at *
        omega
      subst hkl
      have hwx : w = x := by simpa [cellRead] using h k
      subst hwx
      refine congrArg _ (ih hm' hn' fun a => ?_)
      by_cases ha : k = a
      · subst ha
        have key : ∀ q : List (Nat × α), (∀ c ∈ q, k < c.1) → cellRead q k = none := fun q hq => by
          by_contra hne
          obtain ⟨v, hv⟩ := Option.ne_none_iff_exists'.mp hne
          exact absurd (hq _ (mem_of_cellRead hv)) (Nat.lt_irrefl _)
        rw [key m hk, key n hl]
      · simpa [cellRead, ha] using h a

/-! ## BUF -/

@[simp] theorem Memory.read_write_same (m : Memory) (a : Nat) (b : Byte) :
    (m.write a b).read a = some b := cellRead_cellWrite_same m a b

theorem Memory.read_write_other (m : Memory) {a a' : Nat} (b : Byte) (h : a' ≠ a) :
    (m.write a b).read a' = m.read a' := cellRead_cellWrite_other m b h

/-- Nothing is written in the empty buffer. -/
@[simp] theorem Memory.read_nil (a : Nat) : Memory.read [] a = none := rfl

@[simp] theorem Memory.wf_nil : Memory.wf [] = true := rfl

/-- A write keeps BUF's canonical form. -/
theorem Memory.wf_write {m : Memory} (h : m.wf = true) (a : Nat) (b : Byte) :
    (m.write a b).wf = true := cellsRising_cellWrite h a b

/-- Two buffers in canonical form that read alike are equal. -/
theorem Memory.eq_of_read_eq {m n : Memory} (hm : m.wf = true) (hn : n.wf = true)
    (h : ∀ a, m.read a = n.read a) : m = n := eq_of_cellRead_eq hm hn h

/-! ## MemRead and MemWrite -/

/-- MemRead succeeds exactly on a written byte of BUF. -/
theorem State.memRead_ok {s : State} {i : Nat} {b : Byte} :
    s.memRead i = .ok b ↔ i < s.caps.bufCap ∧ s.buf.read i = some b := by
  unfold State.memRead
  split
  · next hi => split <;> simp_all
  · next hi => simp [hi]

/-- MemRead faults on an index outside BUF and on an unwritten byte, and on nothing else. -/
theorem State.memRead_error {s : State} {i : Nat} {f : Fault} :
    s.memRead i = .error f ↔
      (s.caps.bufCap ≤ i ∧ f = .bufIndexOutOfRange i) ∨
      (i < s.caps.bufCap ∧ s.buf.read i = none ∧ f = .unwrittenRead i) := by
  unfold State.memRead
  split
  · next hi =>
    cases hr : s.buf.read i <;> simp [hi, Nat.not_le.mpr hi, eq_comm]
  · next hi => simp [hi, Nat.le_of_not_lt hi, eq_comm]

/-- MemWrite succeeds exactly on a BUF index, and stores the byte. -/
theorem State.memWrite_ok {s t : State} {i : Nat} {b : Byte} :
    s.memWrite i b = .ok t ↔ i < s.caps.bufCap ∧ t = s.setBuf (s.buf.write i b) := by
  unfold State.memWrite
  split
  · next hi => simp [hi, eq_comm]
  · next hi => simp [hi]

/-- MemWrite faults exactly on an index outside BUF. -/
theorem State.memWrite_error {s : State} {i : Nat} {b : Byte} {f : Fault} :
    s.memWrite i b = .error f ↔ s.caps.bufCap ≤ i ∧ f = .bufIndexOutOfRange i := by
  unfold State.memWrite
  split
  · next hi => simp; omega
  · next hi => simp [Nat.le_of_not_lt hi, eq_comm]

/-- A run of bytes reads as bs exactly when it has bs's length and each of its bytes reads as bs's. -/
theorem State.memReadRun_ok {s : State} {off n : Nat} {bs : List Byte} :
    s.memReadRun off n = .ok bs ↔
      bs.length = n ∧ ∀ j b, bs[j]? = some b → s.memRead (off + j) = .ok b := by
  induction n generalizing off bs with
  | zero =>
    rw [State.memReadRun]
    constructor
    · rintro ⟨⟩; simp
    · rintro ⟨h, -⟩; rw [List.length_eq_zero_iff.mp h]
  | succ n ih =>
    rw [State.memReadRun]
    cases hb : s.memRead off with
    | error f =>
      simp only [reduceCtorEq, false_iff, not_and, not_forall]
      intro hl
      cases bs with
      | nil => simp at hl
      | cons b bs => exact ⟨0, b, by simp, by simp [hb]⟩
    | ok b =>
      cases hr : s.memReadRun (off + 1) n with
      | error f =>
        simp only [reduceCtorEq, false_iff]
        rintro ⟨hl, hj⟩
        cases bs with
        | nil => simp at hl
        | cons b' bs =>
          have : s.memReadRun (off + 1) n = .ok bs := ih.mpr ⟨by simpa using hl, fun j x hx => by
            have := hj (j + 1) x (by simpa using hx)
            rwa [show off + (j + 1) = off + 1 + j by omega] at this⟩
          rw [hr] at this; cases this
      | ok rest =>
        obtain ⟨hl, hj⟩ := ih.mp hr
        simp only [Except.ok.injEq]
        constructor
        · rintro rfl
          refine ⟨by simp [hl], fun j x hx => ?_⟩
          cases j with
          | zero => simp at hx; rw [Nat.add_zero, hb, hx]
          | succ j =>
            rw [show off + (j + 1) = off + 1 + j by omega]
            exact hj j x (by simpa using hx)
        · rintro ⟨hl', hj'⟩
          cases bs with
          | nil => simp at hl'
          | cons b' bs =>
            have h0 := hj' 0 b' (by simp)
            rw [Nat.add_zero, hb] at h0
            have : s.memReadRun (off + 1) n = .ok bs := ih.mpr ⟨by simpa using hl', fun j x hx => by
              have := hj' (j + 1) x (by simpa using hx)
              rwa [show off + (j + 1) = off + 1 + j by omega] at this⟩
            rw [hr] at this
            cases h0; cases this; rfl

/-- A run of bytes faults with the fault of its first byte that cannot be read. -/
theorem State.memReadRun_error {s : State} {off n : Nat} {f : Fault} :
    s.memReadRun off n = .error f ↔
      ∃ j < n, s.memRead (off + j) = .error f ∧ ∀ i < j, ∃ b, s.memRead (off + i) = .ok b := by
  induction n generalizing off with
  | zero => simp [State.memReadRun]
  | succ n ih =>
    rw [State.memReadRun]
    cases hb : s.memRead off with
    | error g =>
      constructor
      · rintro ⟨⟩; exact ⟨0, by omega, by simpa using hb, by simp⟩
      · rintro ⟨j, hj, he, hi⟩
        cases j with
        | zero => rw [Nat.add_zero, hb] at he; simpa using he
        | succ j => obtain ⟨b, hb'⟩ := hi 0 (by omega); rw [Nat.add_zero, hb] at hb'; cases hb'
    | ok b =>
      have shift : (∃ j < n + 1, s.memRead (off + j) = .error f ∧
            ∀ i < j, ∃ b, s.memRead (off + i) = .ok b) ↔
          ∃ j < n, s.memRead (off + 1 + j) = .error f ∧
            ∀ i < j, ∃ b, s.memRead (off + 1 + i) = .ok b := by
        constructor
        · rintro ⟨j, hj, he, hi⟩
          cases j with
          | zero => rw [Nat.add_zero, hb] at he; cases he
          | succ j =>
            refine ⟨j, by omega, by rwa [show off + 1 + j = off + (j + 1) by omega], fun i hij => ?_⟩
            rw [show off + 1 + i = off + (i + 1) by omega]
            exact hi (i + 1) (by omega)
        · rintro ⟨j, hj, he, hi⟩
          refine ⟨j + 1, by omega, by rwa [show off + (j + 1) = off + 1 + j by omega], fun i hij => ?_⟩
          cases i with
          | zero => exact ⟨b, by simpa using hb⟩
          | succ i =>
            rw [show off + (i + 1) = off + 1 + i by omega]
            exact hi i (by omega)
      rw [shift, ← ih]
      cases s.memReadRun (off + 1) n <;> simp

end Sys2Proof.Machine
end

