-- ==== Sys2Proof/Laws/State.lean ====
section
/-! SUPPORT. What each field update of Machine/Ops.lean does to each field of the state, so that no proof
unfolds a record update. -/

namespace Sys2Proof.Machine

variable (s : State)

/-! ### setCmd -/

@[simp] theorem State.setCmd_cmd (w : Word) : (s.setCmd w).cmd = w := rfl
@[simp] theorem State.setCmd_code (w : Word) : (s.setCmd w).code = s.code := rfl
@[simp] theorem State.setCmd_busy (w : Word) : (s.setCmd w).busy = s.busy := rfl
@[simp] theorem State.setCmd_ovr (w : Word) : (s.setCmd w).ovr = s.ovr := rfl
@[simp] theorem State.setCmd_xferCount (w : Word) : (s.setCmd w).xferCount = s.xferCount := rfl
@[simp] theorem State.setCmd_rxCount (w : Word) : (s.setCmd w).rxCount = s.rxCount := rfl
@[simp] theorem State.setCmd_result (w : Word) : (s.setCmd w).result = s.result := rfl
@[simp] theorem State.setCmd_acc (w : Word) : (s.setCmd w).acc = s.acc := rfl
@[simp] theorem State.setCmd_caps (w : Word) : (s.setCmd w).caps = s.caps := rfl
@[simp] theorem State.setCmd_buf (w : Word) : (s.setCmd w).buf = s.buf := rfl
@[simp] theorem State.setCmd_seq (w : Word) : (s.setCmd w).seq = s.seq := rfl
@[simp] theorem State.setCmd_busLog (w : Word) : (s.setCmd w).busLog = s.busLog := rfl
@[simp] theorem State.setCmd_answers (w : Word) : (s.setCmd w).answers = s.answers := rfl
@[simp] theorem State.setCmd_schedule (w : Word) : (s.setCmd w).schedule = s.schedule := rfl
@[simp] theorem State.setCmd_draws (w : Word) : (s.setCmd w).draws = s.draws := rfl
@[simp] theorem State.setCmd_powerOn (w : Word) : (s.setCmd w).powerOn = s.powerOn := rfl
@[simp] theorem State.setCmd_host (w : Word) : (s.setCmd w).host = s.host := rfl

/-! ### setBusy -/

@[simp] theorem State.setBusy_cmd (b : Bool) : (s.setBusy b).cmd = s.cmd := rfl
@[simp] theorem State.setBusy_code (b : Bool) : (s.setBusy b).code = s.code := rfl
@[simp] theorem State.setBusy_busy (b : Bool) : (s.setBusy b).busy = b := rfl
@[simp] theorem State.setBusy_ovr (b : Bool) : (s.setBusy b).ovr = s.ovr := rfl
@[simp] theorem State.setBusy_xferCount (b : Bool) : (s.setBusy b).xferCount = s.xferCount := rfl
@[simp] theorem State.setBusy_rxCount (b : Bool) : (s.setBusy b).rxCount = s.rxCount := rfl
@[simp] theorem State.setBusy_result (b : Bool) : (s.setBusy b).result = s.result := rfl
@[simp] theorem State.setBusy_acc (b : Bool) : (s.setBusy b).acc = s.acc := rfl
@[simp] theorem State.setBusy_caps (b : Bool) : (s.setBusy b).caps = s.caps := rfl
@[simp] theorem State.setBusy_buf (b : Bool) : (s.setBusy b).buf = s.buf := rfl
@[simp] theorem State.setBusy_seq (b : Bool) : (s.setBusy b).seq = s.seq := rfl
@[simp] theorem State.setBusy_busLog (b : Bool) : (s.setBusy b).busLog = s.busLog := rfl
@[simp] theorem State.setBusy_answers (b : Bool) : (s.setBusy b).answers = s.answers := rfl
@[simp] theorem State.setBusy_schedule (b : Bool) : (s.setBusy b).schedule = s.schedule := rfl
@[simp] theorem State.setBusy_draws (b : Bool) : (s.setBusy b).draws = s.draws := rfl
@[simp] theorem State.setBusy_powerOn (b : Bool) : (s.setBusy b).powerOn = s.powerOn := rfl
@[simp] theorem State.setBusy_host (b : Bool) : (s.setBusy b).host = s.host := rfl

/-! ### setOvr -/

@[simp] theorem State.setOvr_cmd (b : Bool) : (s.setOvr b).cmd = s.cmd := rfl
@[simp] theorem State.setOvr_code (b : Bool) : (s.setOvr b).code = s.code := rfl
@[simp] theorem State.setOvr_busy (b : Bool) : (s.setOvr b).busy = s.busy := rfl
@[simp] theorem State.setOvr_ovr (b : Bool) : (s.setOvr b).ovr = b := rfl
@[simp] theorem State.setOvr_xferCount (b : Bool) : (s.setOvr b).xferCount = s.xferCount := rfl
@[simp] theorem State.setOvr_rxCount (b : Bool) : (s.setOvr b).rxCount = s.rxCount := rfl
@[simp] theorem State.setOvr_result (b : Bool) : (s.setOvr b).result = s.result := rfl
@[simp] theorem State.setOvr_acc (b : Bool) : (s.setOvr b).acc = s.acc := rfl
@[simp] theorem State.setOvr_caps (b : Bool) : (s.setOvr b).caps = s.caps := rfl
@[simp] theorem State.setOvr_buf (b : Bool) : (s.setOvr b).buf = s.buf := rfl
@[simp] theorem State.setOvr_seq (b : Bool) : (s.setOvr b).seq = s.seq := rfl
@[simp] theorem State.setOvr_busLog (b : Bool) : (s.setOvr b).busLog = s.busLog := rfl
@[simp] theorem State.setOvr_answers (b : Bool) : (s.setOvr b).answers = s.answers := rfl
@[simp] theorem State.setOvr_schedule (b : Bool) : (s.setOvr b).schedule = s.schedule := rfl
@[simp] theorem State.setOvr_draws (b : Bool) : (s.setOvr b).draws = s.draws := rfl
@[simp] theorem State.setOvr_powerOn (b : Bool) : (s.setOvr b).powerOn = s.powerOn := rfl
@[simp] theorem State.setOvr_host (b : Bool) : (s.setOvr b).host = s.host := rfl

/-! ### setCounts -/

@[simp] theorem State.setCounts_cmd (x r : Nat) : (s.setCounts x r).cmd = s.cmd := rfl
@[simp] theorem State.setCounts_code (x r : Nat) : (s.setCounts x r).code = s.code := rfl
@[simp] theorem State.setCounts_busy (x r : Nat) : (s.setCounts x r).busy = s.busy := rfl
@[simp] theorem State.setCounts_ovr (x r : Nat) : (s.setCounts x r).ovr = s.ovr := rfl
@[simp] theorem State.setCounts_xferCount (x r : Nat) :
    (s.setCounts x r).xferCount = BitVec.ofNat 16 x := rfl
@[simp] theorem State.setCounts_rxCount (x r : Nat) :
    (s.setCounts x r).rxCount = BitVec.ofNat 16 r := rfl
@[simp] theorem State.setCounts_result (x r : Nat) : (s.setCounts x r).result = s.result := rfl
@[simp] theorem State.setCounts_acc (x r : Nat) : (s.setCounts x r).acc = s.acc := rfl
@[simp] theorem State.setCounts_caps (x r : Nat) : (s.setCounts x r).caps = s.caps := rfl
@[simp] theorem State.setCounts_buf (x r : Nat) : (s.setCounts x r).buf = s.buf := rfl
@[simp] theorem State.setCounts_seq (x r : Nat) : (s.setCounts x r).seq = s.seq := rfl
@[simp] theorem State.setCounts_busLog (x r : Nat) : (s.setCounts x r).busLog = s.busLog := rfl
@[simp] theorem State.setCounts_answers (x r : Nat) : (s.setCounts x r).answers = s.answers := rfl
@[simp] theorem State.setCounts_schedule (x r : Nat) :
    (s.setCounts x r).schedule = s.schedule := rfl
@[simp] theorem State.setCounts_draws (x r : Nat) : (s.setCounts x r).draws = s.draws := rfl
@[simp] theorem State.setCounts_powerOn (x r : Nat) : (s.setCounts x r).powerOn = s.powerOn := rfl
@[simp] theorem State.setCounts_host (x r : Nat) : (s.setCounts x r).host = s.host := rfl

/-! ### setResult -/

@[simp] theorem State.setResult_cmd (v : Byte) : (s.setResult v).cmd = s.cmd := rfl
@[simp] theorem State.setResult_code (v : Byte) : (s.setResult v).code = s.code := rfl
@[simp] theorem State.setResult_busy (v : Byte) : (s.setResult v).busy = s.busy := rfl
@[simp] theorem State.setResult_ovr (v : Byte) : (s.setResult v).ovr = s.ovr := rfl
@[simp] theorem State.setResult_xferCount (v : Byte) :
    (s.setResult v).xferCount = s.xferCount := rfl
@[simp] theorem State.setResult_rxCount (v : Byte) : (s.setResult v).rxCount = s.rxCount := rfl
@[simp] theorem State.setResult_result (v : Byte) : (s.setResult v).result = v := rfl
@[simp] theorem State.setResult_acc (v : Byte) : (s.setResult v).acc = s.acc := rfl
@[simp] theorem State.setResult_caps (v : Byte) : (s.setResult v).caps = s.caps := rfl
@[simp] theorem State.setResult_buf (v : Byte) : (s.setResult v).buf = s.buf := rfl
@[simp] theorem State.setResult_seq (v : Byte) : (s.setResult v).seq = s.seq := rfl
@[simp] theorem State.setResult_busLog (v : Byte) : (s.setResult v).busLog = s.busLog := rfl
@[simp] theorem State.setResult_answers (v : Byte) : (s.setResult v).answers = s.answers := rfl
@[simp] theorem State.setResult_schedule (v : Byte) : (s.setResult v).schedule = s.schedule := rfl
@[simp] theorem State.setResult_draws (v : Byte) : (s.setResult v).draws = s.draws := rfl
@[simp] theorem State.setResult_powerOn (v : Byte) : (s.setResult v).powerOn = s.powerOn := rfl
@[simp] theorem State.setResult_host (v : Byte) : (s.setResult v).host = s.host := rfl

/-! ### setAcc -/

@[simp] theorem State.setAcc_cmd (v : Byte) : (s.setAcc v).cmd = s.cmd := rfl
@[simp] theorem State.setAcc_code (v : Byte) : (s.setAcc v).code = s.code := rfl
@[simp] theorem State.setAcc_busy (v : Byte) : (s.setAcc v).busy = s.busy := rfl
@[simp] theorem State.setAcc_ovr (v : Byte) : (s.setAcc v).ovr = s.ovr := rfl
@[simp] theorem State.setAcc_xferCount (v : Byte) : (s.setAcc v).xferCount = s.xferCount := rfl
@[simp] theorem State.setAcc_rxCount (v : Byte) : (s.setAcc v).rxCount = s.rxCount := rfl
@[simp] theorem State.setAcc_result (v : Byte) : (s.setAcc v).result = s.result := rfl
@[simp] theorem State.setAcc_acc (v : Byte) : (s.setAcc v).acc = v := rfl
@[simp] theorem State.setAcc_caps (v : Byte) : (s.setAcc v).caps = s.caps := rfl
@[simp] theorem State.setAcc_buf (v : Byte) : (s.setAcc v).buf = s.buf := rfl
@[simp] theorem State.setAcc_seq (v : Byte) : (s.setAcc v).seq = s.seq := rfl
@[simp] theorem State.setAcc_busLog (v : Byte) : (s.setAcc v).busLog = s.busLog := rfl
@[simp] theorem State.setAcc_answers (v : Byte) : (s.setAcc v).answers = s.answers := rfl
@[simp] theorem State.setAcc_schedule (v : Byte) : (s.setAcc v).schedule = s.schedule := rfl
@[simp] theorem State.setAcc_draws (v : Byte) : (s.setAcc v).draws = s.draws := rfl
@[simp] theorem State.setAcc_powerOn (v : Byte) : (s.setAcc v).powerOn = s.powerOn := rfl
@[simp] theorem State.setAcc_host (v : Byte) : (s.setAcc v).host = s.host := rfl

/-! ### setSeq -/

@[simp] theorem State.setSeq_cmd (q : Seq) : (s.setSeq q).cmd = s.cmd := rfl
@[simp] theorem State.setSeq_code (q : Seq) : (s.setSeq q).code = s.code := rfl
@[simp] theorem State.setSeq_busy (q : Seq) : (s.setSeq q).busy = s.busy := rfl
@[simp] theorem State.setSeq_ovr (q : Seq) : (s.setSeq q).ovr = s.ovr := rfl
@[simp] theorem State.setSeq_xferCount (q : Seq) : (s.setSeq q).xferCount = s.xferCount := rfl
@[simp] theorem State.setSeq_rxCount (q : Seq) : (s.setSeq q).rxCount = s.rxCount := rfl
@[simp] theorem State.setSeq_result (q : Seq) : (s.setSeq q).result = s.result := rfl
@[simp] theorem State.setSeq_acc (q : Seq) : (s.setSeq q).acc = s.acc := rfl
@[simp] theorem State.setSeq_caps (q : Seq) : (s.setSeq q).caps = s.caps := rfl
@[simp] theorem State.setSeq_buf (q : Seq) : (s.setSeq q).buf = s.buf := rfl
@[simp] theorem State.setSeq_seq (q : Seq) : (s.setSeq q).seq = q := rfl
@[simp] theorem State.setSeq_busLog (q : Seq) : (s.setSeq q).busLog = s.busLog := rfl
@[simp] theorem State.setSeq_answers (q : Seq) : (s.setSeq q).answers = s.answers := rfl
@[simp] theorem State.setSeq_schedule (q : Seq) : (s.setSeq q).schedule = s.schedule := rfl
@[simp] theorem State.setSeq_draws (q : Seq) : (s.setSeq q).draws = s.draws := rfl
@[simp] theorem State.setSeq_powerOn (q : Seq) : (s.setSeq q).powerOn = s.powerOn := rfl
@[simp] theorem State.setSeq_host (q : Seq) : (s.setSeq q).host = s.host := rfl

/-! ### setBuf -/

@[simp] theorem State.setBuf_cmd (m : Memory) : (s.setBuf m).cmd = s.cmd := rfl
@[simp] theorem State.setBuf_code (m : Memory) : (s.setBuf m).code = s.code := rfl
@[simp] theorem State.setBuf_busy (m : Memory) : (s.setBuf m).busy = s.busy := rfl
@[simp] theorem State.setBuf_ovr (m : Memory) : (s.setBuf m).ovr = s.ovr := rfl
@[simp] theorem State.setBuf_xferCount (m : Memory) : (s.setBuf m).xferCount = s.xferCount := rfl
@[simp] theorem State.setBuf_rxCount (m : Memory) : (s.setBuf m).rxCount = s.rxCount := rfl
@[simp] theorem State.setBuf_result (m : Memory) : (s.setBuf m).result = s.result := rfl
@[simp] theorem State.setBuf_acc (m : Memory) : (s.setBuf m).acc = s.acc := rfl
@[simp] theorem State.setBuf_caps (m : Memory) : (s.setBuf m).caps = s.caps := rfl
@[simp] theorem State.setBuf_buf (m : Memory) : (s.setBuf m).buf = m := rfl
@[simp] theorem State.setBuf_seq (m : Memory) : (s.setBuf m).seq = s.seq := rfl
@[simp] theorem State.setBuf_busLog (m : Memory) : (s.setBuf m).busLog = s.busLog := rfl
@[simp] theorem State.setBuf_answers (m : Memory) : (s.setBuf m).answers = s.answers := rfl
@[simp] theorem State.setBuf_schedule (m : Memory) : (s.setBuf m).schedule = s.schedule := rfl
@[simp] theorem State.setBuf_draws (m : Memory) : (s.setBuf m).draws = s.draws := rfl
@[simp] theorem State.setBuf_powerOn (m : Memory) : (s.setBuf m).powerOn = s.powerOn := rfl
@[simp] theorem State.setBuf_host (m : Memory) : (s.setBuf m).host = s.host := rfl

/-! ### setHostPc -/

@[simp] theorem State.setHostPc_cmd (n : Nat) : (s.setHostPc n).cmd = s.cmd := rfl
@[simp] theorem State.setHostPc_code (n : Nat) : (s.setHostPc n).code = s.code := rfl
@[simp] theorem State.setHostPc_busy (n : Nat) : (s.setHostPc n).busy = s.busy := rfl
@[simp] theorem State.setHostPc_ovr (n : Nat) : (s.setHostPc n).ovr = s.ovr := rfl
@[simp] theorem State.setHostPc_xferCount (n : Nat) : (s.setHostPc n).xferCount = s.xferCount := rfl
@[simp] theorem State.setHostPc_rxCount (n : Nat) : (s.setHostPc n).rxCount = s.rxCount := rfl
@[simp] theorem State.setHostPc_result (n : Nat) : (s.setHostPc n).result = s.result := rfl
@[simp] theorem State.setHostPc_acc (n : Nat) : (s.setHostPc n).acc = s.acc := rfl
@[simp] theorem State.setHostPc_caps (n : Nat) : (s.setHostPc n).caps = s.caps := rfl
@[simp] theorem State.setHostPc_buf (n : Nat) : (s.setHostPc n).buf = s.buf := rfl
@[simp] theorem State.setHostPc_seq (n : Nat) : (s.setHostPc n).seq = s.seq := rfl
@[simp] theorem State.setHostPc_busLog (n : Nat) : (s.setHostPc n).busLog = s.busLog := rfl
@[simp] theorem State.setHostPc_answers (n : Nat) : (s.setHostPc n).answers = s.answers := rfl
@[simp] theorem State.setHostPc_schedule (n : Nat) : (s.setHostPc n).schedule = s.schedule := rfl
@[simp] theorem State.setHostPc_draws (n : Nat) : (s.setHostPc n).draws = s.draws := rfl
@[simp] theorem State.setHostPc_powerOn (n : Nat) : (s.setHostPc n).powerOn = s.powerOn := rfl
@[simp] theorem State.setHostPc_host (n : Nat) :
    (s.setHostPc n).host = { s.host with pc := n } := rfl

/-! ### setTemp -/

@[simp] theorem State.setTemp_cmd (t : Nat) (v : Word) : (s.setTemp t v).cmd = s.cmd := rfl
@[simp] theorem State.setTemp_code (t : Nat) (v : Word) : (s.setTemp t v).code = s.code := rfl
@[simp] theorem State.setTemp_busy (t : Nat) (v : Word) : (s.setTemp t v).busy = s.busy := rfl
@[simp] theorem State.setTemp_ovr (t : Nat) (v : Word) : (s.setTemp t v).ovr = s.ovr := rfl
@[simp] theorem State.setTemp_xferCount (t : Nat) (v : Word) :
    (s.setTemp t v).xferCount = s.xferCount := rfl
@[simp] theorem State.setTemp_rxCount (t : Nat) (v : Word) :
    (s.setTemp t v).rxCount = s.rxCount := rfl
@[simp] theorem State.setTemp_result (t : Nat) (v : Word) : (s.setTemp t v).result = s.result := rfl
@[simp] theorem State.setTemp_acc (t : Nat) (v : Word) : (s.setTemp t v).acc = s.acc := rfl
@[simp] theorem State.setTemp_caps (t : Nat) (v : Word) : (s.setTemp t v).caps = s.caps := rfl
@[simp] theorem State.setTemp_buf (t : Nat) (v : Word) : (s.setTemp t v).buf = s.buf := rfl
@[simp] theorem State.setTemp_seq (t : Nat) (v : Word) : (s.setTemp t v).seq = s.seq := rfl
@[simp] theorem State.setTemp_busLog (t : Nat) (v : Word) : (s.setTemp t v).busLog = s.busLog := rfl
@[simp] theorem State.setTemp_answers (t : Nat) (v : Word) :
    (s.setTemp t v).answers = s.answers := rfl
@[simp] theorem State.setTemp_schedule (t : Nat) (v : Word) :
    (s.setTemp t v).schedule = s.schedule := rfl
@[simp] theorem State.setTemp_draws (t : Nat) (v : Word) : (s.setTemp t v).draws = s.draws := rfl
@[simp] theorem State.setTemp_powerOn (t : Nat) (v : Word) :
    (s.setTemp t v).powerOn = s.powerOn := rfl
@[simp] theorem State.setTemp_host (t : Nat) (v : Word) :
    (s.setTemp t v).host = { s.host with temps := cellWrite s.host.temps t v } := rfl

/-! ### raiseOutcome -/

@[simp] theorem State.raiseOutcome_cmd (c : Code) : (s.raiseOutcome c).cmd = s.cmd := rfl
@[simp] theorem State.raiseOutcome_code (c : Code) : (s.raiseOutcome c).code = c := rfl
@[simp] theorem State.raiseOutcome_busy (c : Code) : (s.raiseOutcome c).busy = s.busy := rfl
@[simp] theorem State.raiseOutcome_ovr (c : Code) : (s.raiseOutcome c).ovr = s.ovr := rfl
@[simp] theorem State.raiseOutcome_xferCount (c : Code) :
    (s.raiseOutcome c).xferCount = s.xferCount := rfl
@[simp] theorem State.raiseOutcome_rxCount (c : Code) :
    (s.raiseOutcome c).rxCount = s.rxCount := rfl
@[simp] theorem State.raiseOutcome_result (c : Code) : (s.raiseOutcome c).result = s.result := rfl
@[simp] theorem State.raiseOutcome_acc (c : Code) : (s.raiseOutcome c).acc = s.acc := rfl
@[simp] theorem State.raiseOutcome_caps (c : Code) : (s.raiseOutcome c).caps = s.caps := rfl
@[simp] theorem State.raiseOutcome_buf (c : Code) : (s.raiseOutcome c).buf = s.buf := rfl
@[simp] theorem State.raiseOutcome_seq (c : Code) : (s.raiseOutcome c).seq = s.seq := rfl
@[simp] theorem State.raiseOutcome_busLog (c : Code) : (s.raiseOutcome c).busLog = s.busLog := rfl
@[simp] theorem State.raiseOutcome_answers (c : Code) :
    (s.raiseOutcome c).answers = s.answers := rfl
@[simp] theorem State.raiseOutcome_schedule (c : Code) :
    (s.raiseOutcome c).schedule = s.schedule := rfl
@[simp] theorem State.raiseOutcome_draws (c : Code) : (s.raiseOutcome c).draws = s.draws := rfl
@[simp] theorem State.raiseOutcome_powerOn (c : Code) :
    (s.raiseOutcome c).powerOn = s.powerOn := rfl
@[simp] theorem State.raiseOutcome_host (c : Code) : (s.raiseOutcome c).host = s.host := rfl

/-! ### issue -/

@[simp] theorem State.issue_cmd (q : BusRequest) (a : BusAnswer) : (s.issue q a).cmd = s.cmd := rfl
@[simp] theorem State.issue_code (q : BusRequest) (a : BusAnswer) :
    (s.issue q a).code = s.code := rfl
@[simp] theorem State.issue_busy (q : BusRequest) (a : BusAnswer) :
    (s.issue q a).busy = s.busy := rfl
@[simp] theorem State.issue_ovr (q : BusRequest) (a : BusAnswer) : (s.issue q a).ovr = s.ovr := rfl
@[simp] theorem State.issue_xferCount (q : BusRequest) (a : BusAnswer) :
    (s.issue q a).xferCount = s.xferCount := rfl
@[simp] theorem State.issue_rxCount (q : BusRequest) (a : BusAnswer) :
    (s.issue q a).rxCount = s.rxCount := rfl
@[simp] theorem State.issue_result (q : BusRequest) (a : BusAnswer) :
    (s.issue q a).result = s.result := rfl
@[simp] theorem State.issue_acc (q : BusRequest) (a : BusAnswer) : (s.issue q a).acc = s.acc := rfl
@[simp] theorem State.issue_caps (q : BusRequest) (a : BusAnswer) :
    (s.issue q a).caps = s.caps := rfl
@[simp] theorem State.issue_buf (q : BusRequest) (a : BusAnswer) : (s.issue q a).buf = s.buf := rfl
@[simp] theorem State.issue_seq (q : BusRequest) (a : BusAnswer) : (s.issue q a).seq = s.seq := rfl
@[simp] theorem State.issue_busLog (q : BusRequest) (a : BusAnswer) :
    (s.issue q a).busLog = s.busLog ++ [answered q a] := rfl
@[simp] theorem State.issue_answers (q : BusRequest) (a : BusAnswer) :
    (s.issue q a).answers = s.answers := rfl
@[simp] theorem State.issue_schedule (q : BusRequest) (a : BusAnswer) :
    (s.issue q a).schedule = s.schedule := rfl
@[simp] theorem State.issue_draws (q : BusRequest) (a : BusAnswer) :
    (s.issue q a).draws = s.draws := rfl
@[simp] theorem State.issue_powerOn (q : BusRequest) (a : BusAnswer) :
    (s.issue q a).powerOn = s.powerOn := rfl
@[simp] theorem State.issue_host (q : BusRequest) (a : BusAnswer) :
    (s.issue q a).host = s.host := rfl

/-! ### issueBusReset -/

@[simp] theorem State.issueBusReset_cmd : s.issueBusReset.cmd = s.cmd := rfl
@[simp] theorem State.issueBusReset_code : s.issueBusReset.code = s.code := rfl
@[simp] theorem State.issueBusReset_busy : s.issueBusReset.busy = s.busy := rfl
@[simp] theorem State.issueBusReset_ovr : s.issueBusReset.ovr = s.ovr := rfl
@[simp] theorem State.issueBusReset_xferCount : s.issueBusReset.xferCount = s.xferCount := rfl
@[simp] theorem State.issueBusReset_rxCount : s.issueBusReset.rxCount = s.rxCount := rfl
@[simp] theorem State.issueBusReset_result : s.issueBusReset.result = s.result := rfl
@[simp] theorem State.issueBusReset_acc : s.issueBusReset.acc = s.acc := rfl
@[simp] theorem State.issueBusReset_caps : s.issueBusReset.caps = s.caps := rfl
@[simp] theorem State.issueBusReset_buf : s.issueBusReset.buf = s.buf := rfl
@[simp] theorem State.issueBusReset_seq : s.issueBusReset.seq = s.seq := rfl
@[simp] theorem State.issueBusReset_busLog :
    s.issueBusReset.busLog = s.busLog ++ [{ request := .busReset, response := none, data := none }] := rfl
@[simp] theorem State.issueBusReset_answers : s.issueBusReset.answers = s.answers := rfl
@[simp] theorem State.issueBusReset_schedule : s.issueBusReset.schedule = s.schedule := rfl
@[simp] theorem State.issueBusReset_draws : s.issueBusReset.draws = s.draws := rfl
@[simp] theorem State.issueBusReset_powerOn : s.issueBusReset.powerOn = s.powerOn := rfl
@[simp] theorem State.issueBusReset_host : s.issueBusReset.host = s.host := rfl

/-! ### afterDraw -/

@[simp] theorem State.afterDraw_cmd : s.afterDraw.cmd = s.cmd := rfl
@[simp] theorem State.afterDraw_code : s.afterDraw.code = s.code := rfl
@[simp] theorem State.afterDraw_busy : s.afterDraw.busy = s.busy := rfl
@[simp] theorem State.afterDraw_ovr : s.afterDraw.ovr = s.ovr := rfl
@[simp] theorem State.afterDraw_xferCount : s.afterDraw.xferCount = s.xferCount := rfl
@[simp] theorem State.afterDraw_rxCount : s.afterDraw.rxCount = s.rxCount := rfl
@[simp] theorem State.afterDraw_result : s.afterDraw.result = s.result := rfl
@[simp] theorem State.afterDraw_acc : s.afterDraw.acc = s.acc := rfl
@[simp] theorem State.afterDraw_caps : s.afterDraw.caps = s.caps := rfl
@[simp] theorem State.afterDraw_buf : s.afterDraw.buf = s.buf := rfl
@[simp] theorem State.afterDraw_seq : s.afterDraw.seq = s.seq := rfl
@[simp] theorem State.afterDraw_busLog : s.afterDraw.busLog = s.busLog := rfl
@[simp] theorem State.afterDraw_answers : s.afterDraw.answers = s.answers := rfl
@[simp] theorem State.afterDraw_schedule : s.afterDraw.schedule = s.schedule := rfl
@[simp] theorem State.afterDraw_draws : s.afterDraw.draws = s.draws + 1 := rfl
@[simp] theorem State.afterDraw_powerOn : s.afterDraw.powerOn = s.powerOn := rfl
@[simp] theorem State.afterDraw_host : s.afterDraw.host = s.host := rfl

/-! ### takeAnswer: the given answers shrink, or one free value is drawn -/

@[simp] theorem State.takeAnswer_cmd : s.takeAnswer.cmd = s.cmd := by
  unfold State.takeAnswer; split <;> rfl
@[simp] theorem State.takeAnswer_code : s.takeAnswer.code = s.code := by
  unfold State.takeAnswer; split <;> rfl
@[simp] theorem State.takeAnswer_busy : s.takeAnswer.busy = s.busy := by
  unfold State.takeAnswer; split <;> rfl
@[simp] theorem State.takeAnswer_ovr : s.takeAnswer.ovr = s.ovr := by
  unfold State.takeAnswer; split <;> rfl
@[simp] theorem State.takeAnswer_xferCount : s.takeAnswer.xferCount = s.xferCount := by
  unfold State.takeAnswer; split <;> rfl
@[simp] theorem State.takeAnswer_rxCount : s.takeAnswer.rxCount = s.rxCount := by
  unfold State.takeAnswer; split <;> rfl
@[simp] theorem State.takeAnswer_result : s.takeAnswer.result = s.result := by
  unfold State.takeAnswer; split <;> rfl
@[simp] theorem State.takeAnswer_acc : s.takeAnswer.acc = s.acc := by
  unfold State.takeAnswer; split <;> rfl
@[simp] theorem State.takeAnswer_caps : s.takeAnswer.caps = s.caps := by
  unfold State.takeAnswer; split <;> rfl
@[simp] theorem State.takeAnswer_buf : s.takeAnswer.buf = s.buf := by
  unfold State.takeAnswer; split <;> rfl
@[simp] theorem State.takeAnswer_seq : s.takeAnswer.seq = s.seq := by
  unfold State.takeAnswer; split <;> rfl
@[simp] theorem State.takeAnswer_busLog : s.takeAnswer.busLog = s.busLog := by
  unfold State.takeAnswer; split <;> rfl
@[simp] theorem State.takeAnswer_schedule : s.takeAnswer.schedule = s.schedule := by
  unfold State.takeAnswer; split <;> rfl
@[simp] theorem State.takeAnswer_powerOn : s.takeAnswer.powerOn = s.powerOn := by
  unfold State.takeAnswer; split <;> rfl
@[simp] theorem State.takeAnswer_host : s.takeAnswer.host = s.host := by
  unfold State.takeAnswer; split <;> rfl

end Sys2Proof.Machine
end

