-- ==== Sys2Proof/Laws/Commands.lean ====
section
/-! SUPPORT. One spec lemma for each shared operation of the commands, and the inversion lemma of exec:
every way in which a command can end. -/

namespace Sys2Proof.Machine

variable {s t : State}

/-! ## The CRC over a run -/

/-- CRC_FINALIZE is a run from INIT that always succeeds. -/
theorem exec_crcFinalize (init : Byte) (off len : BitVec 8) (s : State) :
    exec (.crcFinalize init off len) s = crcRun init off len (fun _ => .success) s := rfl

/-- CRC_VERIFY is a run from 0x00 that compares with EXPECT. -/
theorem exec_crcVerify (expect : Byte) (off len : BitVec 8) (s : State) :
    exec (.crcVerify expect off len) s =
      crcRun 0x00#8 off len (fun c => if c = expect then .success else .checksumMismatch) s := rfl

/-- A run whose bytes can be read gives its checksum. -/
theorem crcRun_reads {init : Byte} {off len : BitVec 8} {judge : Byte → Code} {bs : List Byte}
    (fits : s.runFits off len = true) (pec : s.caps.hasPec = true)
    (reads : s.memReadRun off.toNat len.toNat = .ok bs) :
    crcRun init off len judge s =
      .next ((s.setResult (crc8 init bs)).raiseOutcome (judge (crc8 init bs))) := by
  simp [crcRun, State.runBytes, fits, pec, reads]

/-- A run that passes the end of BUF is UnsupportedLength (60_exceptions.md R224). -/
theorem crcRun_tooLong {init : Byte} {off len : BitVec 8} {judge : Byte → Code}
    (fits : s.runFits off len = false) :
    crcRun init off len judge s = .next (s.raiseOutcome .unsupportedLength) := by
  simp [crcRun, fits]

/-- Without the engine a run that fits is NotImplemented (60_exceptions.md R224). -/
theorem crcRun_noEngine {init : Byte} {off len : BitVec 8} {judge : Byte → Code}
    (fits : s.runFits off len = true) (pec : s.caps.hasPec = false) :
    crcRun init off len judge s = .next (s.raiseOutcome .notImplemented) := by
  simp [crcRun, fits, pec]

/-- Every way in which a CRC run can go on. -/
theorem crcRun_next {init : Byte} {off len : BitVec 8} {judge : Byte → Code}
    (h : crcRun init off len judge s = .next t) :
    (∃ c, t = s.raiseOutcome c) ∨
      ∃ v c, s.caps.hasPec = true ∧ t = (s.setResult v).raiseOutcome c := by
  unfold crcRun at h
  split_ifs at h with h1 h2
  · exact .inl ⟨_, by simpa using h.symm⟩
  · exact .inl ⟨_, by simpa using h.symm⟩
  · cases hr : s.runBytes off len with
    | error f => simp [hr] at h
    | ok bs => exact .inr ⟨_, _, by simpa using h2, by simpa [hr] using h.symm⟩

/-- A CRC run stops only on an unwritten byte of the run (70_reset_and_hazards.md R251). -/
theorem crcRun_stops {init : Byte} {off len : BitVec 8} {judge : Byte → Code} :
    (∀ r, crcRun init off len judge s ≠ .refused r) ∧
      ∀ f, crcRun init off len judge s = .fault f →
        ∃ j < len.toNat, s.buf.read (off.toNat + j) = none ∧ f = .unwrittenRead (off.toNat + j) := by
  unfold crcRun
  split_ifs with h1 h2
  · simp
  · simp
  · cases hr : s.runBytes off len with
    | ok bs => simp
    | error g =>
      refine ⟨by simp, fun f hf => ?_⟩
      obtain ⟨j, hj, he, -⟩ := State.memReadRun_error.mp hr
      have fits : off.toNat + len.toNat ≤ s.caps.bufCap := by simpa [State.runFits] using h1
      have hgf : g = f := by simpa using hf
      subst hgf
      rcases State.memRead_error.mp he with ⟨hb, -⟩ | ⟨-, hn, hf'⟩
      · omega
      · exact ⟨j, hj, hn, hf'⟩

/-! ## START acceptance -/

/-- The state after the acceptance of a START that has something to move (43_facade.md R196). -/
def State.started (s : State) (q : Request) : State :=
  ((s.latchRequest q).setBusy true).setSeq { (s.latchRequest q).seq with phase := .addr }

/-- Every way in which START acceptance ends (43_facade.md R196). -/
theorem startRequest_cases (q : Request) (s : State) :
    (s.caps.maxTotal < totalLen q.wlen q.rlen ∧
      startRequest q s = .next (s.refuseStart .unsupportedLength)) ∨
    (totalLen q.wlen q.rlen ≤ s.caps.maxTotal ∧ q.pec = true ∧ s.caps.hasPec = false ∧
      startRequest q s = .next (s.refuseStart .notImplemented)) ∨
    (totalLen q.wlen q.rlen ≤ s.caps.maxTotal ∧ (q.pec = true → s.caps.hasPec = true) ∧
      chunkPlan s.caps q.wlen.toNat q.rlen.toNat = [] ∧
      startRequest q s = .next (s.latchRequest q)) ∨
    (totalLen q.wlen q.rlen ≤ s.caps.maxTotal ∧ (q.pec = true → s.caps.hasPec = true) ∧
      chunkPlan s.caps q.wlen.toNat q.rlen.toNat ≠ [] ∧
      startRequest q s = .next (s.started q)) := by
  unfold startRequest
  by_cases h1 : s.caps.maxTotal < totalLen q.wlen q.rlen
  · exact .inl ⟨h1, by simp [h1]⟩
  · by_cases h2 : q.pec = true ∧ s.caps.hasPec = false
    · exact .inr (.inl ⟨Nat.le_of_not_lt h1, h2.1, h2.2, by simp [h1, h2]⟩)
    · have h3 : q.pec = true → s.caps.hasPec = true := fun hp => by
        by_contra hn; exact h2 ⟨hp, by simpa using hn⟩
      by_cases h4 : chunkPlan s.caps q.wlen.toNat q.rlen.toNat = []
      · refine .inr (.inr (.inl ⟨Nat.le_of_not_lt h1, h3, h4, ?_⟩))
        simp only [h1, h2, if_false, State.latchRequest]
        simp only [State.raiseOutcome_seq, State.setCounts_seq, State.setSeq_seq, h4, if_true]
        rfl
      · refine .inr (.inr (.inr ⟨Nat.le_of_not_lt h1, h3, h4, ?_⟩))
        simp only [h1, h2, if_false]
        have : (s.latchRequest q).seq.chunks ≠ [] := h4
        simp only [this, if_false]
        rfl

/-- A START whose address fits is START acceptance of its request. -/
theorem exec_start {i : Instr} {q : Request} (hi : startOf i = some q)
    (ha : addrFits q.a10 q.addr = true) (s : State) : exec i s = startRequest q s := by
  cases i <;> simp only [startOf, Option.some.injEq, reduceCtorEq] at hi <;> subst hi <;>
    simpa [exec, execStartW, execStartR, execStartWR, startChecked] using fun h => absurd ha (by simp [h])

/-- A START whose address does not fit is an illegal command. -/
theorem exec_start_illegal {i : Instr} {q : Request} (hi : startOf i = some q)
    (ha : addrFits q.a10 q.addr = false) (s : State) :
    exec i s = .next (s.raiseOutcome .illegalCommand) := by
  cases i <;> simp only [startOf, Option.some.injEq, reduceCtorEq] at hi <;> subst hi <;>
    simp_all [exec, execStartW, execStartR, execStartWR, startChecked, illegalCommand]

/-! ## Every command -/

/-- Every way in which a command goes on. -/
inductive ExecNext (i : Instr) (s : State) : State → Prop
  /-- Nothing changes. -/
  | same : ExecNext i s s
  /-- Only CODE changes. -/
  | outcome (c : Code) : ExecNext i s (s.raiseOutcome c)
  /-- RESULT and CODE change, and the engine is there. -/
  | checksum (v : Byte) (c : Code) (pec : s.caps.hasPec = true) :
      ExecNext i s ((s.setResult v).raiseOutcome c)
  /-- RESET (43_facade.md R194). -/
  | reset (hi : i = .reset) :
      ExecNext i s
        (((((s.setAcc 0x00#8).setResult 0#8).setCounts 0 0).issueBusReset).raiseOutcome .success)
  /-- A START that a check refuses (43_facade.md R196). -/
  | refuse (c : Code) : ExecNext i s (s.refuseStart c)
  /-- A START with nothing to move (43_facade.md R196). -/
  | latch (q : Request) (hq : startOf i = some q) (fits : totalLen q.wlen q.rlen ≤ s.caps.maxTotal)
      (empty : chunkPlan s.caps q.wlen.toNat q.rlen.toNat = []) :
      ExecNext i s (s.latchRequest q)
  /-- A START that begins its request (43_facade.md R196). -/
  | begin (q : Request) (hq : startOf i = some q) (addr : addrFits q.a10 q.addr = true)
      (fits : totalLen q.wlen q.rlen ≤ s.caps.maxTotal)
      (engine : q.pec = true → s.caps.hasPec = true)
      (nonempty : chunkPlan s.caps q.wlen.toNat q.rlen.toNat ≠ []) :
      ExecNext i s (s.started q)

/-- A CRC run goes on in one of two ways. -/
theorem execNext_of_crcRun {i : Instr} {init : Byte} {off len : BitVec 8} {judge : Byte → Code}
    (h : crcRun init off len judge s = .next t) : ExecNext i s t := by
  rcases crcRun_next h with ⟨c, rfl⟩ | ⟨v, c, hp, rfl⟩
  · exact .outcome c
  · exact .checksum v c hp

/-- A START goes on in one of five ways. -/
theorem execNext_of_start {i : Instr} {q : Request} (hq : startOf i = some q)
    (h : exec i s = .next t) : ExecNext i s t := by
  cases ha : addrFits q.a10 q.addr with
  | false =>
    rw [exec_start_illegal hq ha] at h
    cases h; exact .outcome _
  | true =>
    rw [exec_start hq ha] at h
    rcases startRequest_cases q s with ⟨-, e⟩ | ⟨-, -, -, e⟩ | ⟨h1, h2, h3, e⟩ | ⟨h1, h2, h3, e⟩ <;>
      rw [e] at h <;> cases h
    · exact .refuse _
    · exact .refuse _
    · exact .latch q hq h1 h3
    · exact .begin q hq ha h1 h2 h3

/-- The inversion lemma of exec. -/
theorem exec_next {i : Instr} (h : exec i s = .next t) : ExecNext i s t := by
  cases i with
  | nop => cases h; exact .same
  | reset => cases h; exact .reset rfl
  | queryCaps => cases h; exact .outcome _
  | startW pec a10 addr wlen => exact execNext_of_start rfl h
  | startR pec a10 addr rlen => exact execNext_of_start rfl h
  | startWR pec a10 addr wlen rlen => exact execNext_of_start rfl h
  | crcUpdate prev data =>
    simp only [exec, execCrcUpdate] at h
    split_ifs at h with hp <;> cases h
    · exact .outcome _
    · exact .checksum _ _ (by simpa using hp)
  | crcFinalize init off len => rw [exec_crcFinalize] at h; exact execNext_of_crcRun h
  | crcVerify expect off len => rw [exec_crcVerify] at h; exact execNext_of_crcRun h
  | reserved9 body => cases h; exact .outcome _
  | reservedAB body => cases h; exact .outcome _
  | reservedCF body => cases h; exact .outcome _

end Sys2Proof.Machine
end

