-- ==== Sys2Proof/Laws/Decode.lean ====
section
/-! SUPPORT. The inversion lemma of the decoder: every way in which a word decodes. -/

namespace Sys2Proof

/-- Every way in which a word decodes (spec/30_encoding.md R81 to R89). -/
inductive Decodes (w : Word) : Instr → Prop
  | nop (op : opField w = 0x0#4) (rest : w.extractLsb' 0 28 = 0#28) : Decodes w .nop
  | reset (op : opField w = 0x1#4) (rest : w.extractLsb' 0 28 = 0#28) : Decodes w .reset
  | queryCaps (op : opField w = 0x2#4) (rest : w.extractLsb' 0 28 = 0#28) : Decodes w .queryCaps
  | startW (op : opField w = 0x3#4) (rlen : byte0Field w = 0#8)
      (addr : addrFits (a10Field w) (addrField w) = true) :
      Decodes w (.startW (pecField w) (a10Field w) (addrField w) (byte1Field w))
  | startR (op : opField w = 0x4#4) (wlen : byte1Field w = 0#8)
      (addr : addrFits (a10Field w) (addrField w) = true) :
      Decodes w (.startR (pecField w) (a10Field w) (addrField w) (byte0Field w))
  | startWR (op : opField w = 0x5#4) (addr : addrFits (a10Field w) (addrField w) = true) :
      Decodes w (.startWR (pecField w) (a10Field w) (addrField w) (byte1Field w) (byte0Field w))
  | crcUpdate (op : opField w = 0x6#4) (rest : w.extractLsb' 16 12 = 0#12) :
      Decodes w (.crcUpdate (byte1Field w) (byte0Field w))
  | crcFinalize (op : opField w = 0x7#4) (rest : w.extractLsb' 24 4 = 0#4) :
      Decodes w (.crcFinalize (byte2Field w) (byte1Field w) (byte0Field w))
  | crcVerify (op : opField w = 0x8#4) (rest : w.extractLsb' 24 4 = 0#4) :
      Decodes w (.crcVerify (byte2Field w) (byte1Field w) (byte0Field w))
  | reserved9 (op : opField w = 0x9#4) : Decodes w (.reserved9 (w.extractLsb' 0 28))
  | reservedAB (op : w.extractLsb' 29 3 = 0b101#3) : Decodes w (.reservedAB (w.extractLsb' 0 29))
  | reservedCF (op : 0xA#4 ≤ opField w) (top : w.extractLsb' 29 3 ≠ 0b101#3) :
      Decodes w (.reservedCF (w.extractLsb' 0 30))

/-- Format N decodes to its instruction when the rest of the word is 0. -/
theorem decodeN_ok {w : Word} {i j : Instr} :
    decodeN w i = .ok j ↔ w.extractLsb' 0 28 = 0#28 ∧ i = j := by
  unfold decodeN; split <;> simp_all

/-- Format U. -/
theorem decodeU_ok {w : Word} {i : Instr} :
    decodeU w = .ok i ↔
      w.extractLsb' 16 12 = 0#12 ∧ i = .crcUpdate (byte1Field w) (byte0Field w) := by
  unfold decodeU; split <;> simp_all [eq_comm]

/-- Format B decodes to its instruction when word[27:24] is 0. -/
theorem decodeB_ok {w : Word} {i j : Instr} :
    decodeB w i = .ok j ↔ w.extractLsb' 24 4 = 0#4 ∧ i = j := by
  unfold decodeB; split <;> simp_all

theorem decodeStartW_ok {w : Word} {i : Instr} :
    decodeStartW w = .ok i ↔
      byte0Field w = 0#8 ∧ addrFits (a10Field w) (addrField w) = true ∧
        i = .startW (pecField w) (a10Field w) (addrField w) (byte1Field w) := by
  unfold decodeStartW
  by_cases h : byte0Field w = 0#8 <;> by_cases h' : addrFits (a10Field w) (addrField w) = true <;>
    simp only [h, h', ne_eq, not_true_eq_false, not_false_eq_true, if_true, if_false, true_and,
      false_and, reduceCtorEq, Except.ok.injEq, Bool.false_eq_true]
  exact eq_comm

theorem decodeStartR_ok {w : Word} {i : Instr} :
    decodeStartR w = .ok i ↔
      byte1Field w = 0#8 ∧ addrFits (a10Field w) (addrField w) = true ∧
        i = .startR (pecField w) (a10Field w) (addrField w) (byte0Field w) := by
  unfold decodeStartR
  by_cases h : byte1Field w = 0#8 <;> by_cases h' : addrFits (a10Field w) (addrField w) = true <;>
    simp only [h, h', ne_eq, not_true_eq_false, not_false_eq_true, if_true, if_false, true_and,
      false_and, reduceCtorEq, Except.ok.injEq, Bool.false_eq_true]
  exact eq_comm

theorem decodeStartWR_ok {w : Word} {i : Instr} :
    decodeStartWR w = .ok i ↔
      addrFits (a10Field w) (addrField w) = true ∧
        i = .startWR (pecField w) (a10Field w) (addrField w) (byte1Field w) (byte0Field w) := by
  unfold decodeStartWR
  by_cases h' : addrFits (a10Field w) (addrField w) = true <;>
    simp only [h', if_true, if_false, true_and, false_and, reduceCtorEq, Except.ok.injEq,
      Bool.false_eq_true]
  exact eq_comm

/-- An opcode that is none of 0x0 to 0x9 is at least 0xA. -/
theorem le_of_ne_low {k : BitVec 4} (h0 : k ≠ 0#4) (h1 : k ≠ 1#4) (h2 : k ≠ 2#4) (h3 : k ≠ 3#4)
    (h4 : k ≠ 4#4) (h5 : k ≠ 5#4) (h6 : k ≠ 6#4) (h7 : k ≠ 7#4) (h8 : k ≠ 8#4) (h9 : k ≠ 9#4) :
    0xA#4 ≤ k := by
  bv_omega

/-- The inversion lemma of decode. -/
theorem decode_ok {w : Word} {i : Instr} (h : decode w = .ok i) : Decodes w i := by
  unfold decode at h
  by_cases h0 : opField w = 0x0#4
  · rw [if_pos h0] at h; obtain ⟨hr, rfl⟩ := decodeN_ok.mp h; exact .nop h0 hr
  rw [if_neg h0] at h
  by_cases h1 : opField w = 0x1#4
  · rw [if_pos h1] at h; obtain ⟨hr, rfl⟩ := decodeN_ok.mp h; exact .reset h1 hr
  rw [if_neg h1] at h
  by_cases h2 : opField w = 0x2#4
  · rw [if_pos h2] at h; obtain ⟨hr, rfl⟩ := decodeN_ok.mp h; exact .queryCaps h2 hr
  rw [if_neg h2] at h
  by_cases h3 : opField w = 0x3#4
  · rw [if_pos h3] at h; obtain ⟨hr, ha, rfl⟩ := decodeStartW_ok.mp h; exact .startW h3 hr ha
  rw [if_neg h3] at h
  by_cases h4 : opField w = 0x4#4
  · rw [if_pos h4] at h; obtain ⟨hr, ha, rfl⟩ := decodeStartR_ok.mp h; exact .startR h4 hr ha
  rw [if_neg h4] at h
  by_cases h5 : opField w = 0x5#4
  · rw [if_pos h5] at h; obtain ⟨hr, rfl⟩ := decodeStartWR_ok.mp h; exact .startWR h5 hr
  rw [if_neg h5] at h
  by_cases h6 : opField w = 0x6#4
  · rw [if_pos h6] at h; obtain ⟨hr, rfl⟩ := decodeU_ok.mp h; exact .crcUpdate h6 hr
  rw [if_neg h6] at h
  by_cases h7 : opField w = 0x7#4
  · rw [if_pos h7] at h; obtain ⟨hr, rfl⟩ := decodeB_ok.mp h; exact .crcFinalize h7 hr
  rw [if_neg h7] at h
  by_cases h8 : opField w = 0x8#4
  · rw [if_pos h8] at h; obtain ⟨hr, rfl⟩ := decodeB_ok.mp h; exact .crcVerify h8 hr
  rw [if_neg h8] at h
  by_cases h9 : opField w = 0x9#4
  · rw [if_pos h9] at h; cases h; exact .reserved9 h9
  rw [if_neg h9] at h
  by_cases hA : w.extractLsb' 29 3 = 0b101#3
  · rw [if_pos hA] at h; cases h; exact .reservedAB hA
  rw [if_neg hA] at h
  cases h; exact .reservedCF (le_of_ne_low h0 h1 h2 h3 h4 h5 h6 h7 h8 h9) hA

end Sys2Proof
end

