-- ==== Sys2Proof/Laws/Driver.lean ====
section
/-! SUPPORT. What the driver's shared operations leave unchanged, field by field, and what each of them
writes. -/

namespace Sys2Proof.Machine

/-- The bytes of chunk c, counted in direction d. -/
def dirBytesOf (d : Dir) (c : Chunk) : Nat := if c.dir = d then c.len else 0

variable (s : State)

/-! ### fold -/

@[simp] theorem State.fold_cmd (bs : List Byte) : (s.fold bs).cmd = s.cmd := by
  unfold State.fold; split <;> rfl
@[simp] theorem State.fold_code (bs : List Byte) : (s.fold bs).code = s.code := by
  unfold State.fold; split <;> rfl
@[simp] theorem State.fold_busy (bs : List Byte) : (s.fold bs).busy = s.busy := by
  unfold State.fold; split <;> rfl
@[simp] theorem State.fold_ovr (bs : List Byte) : (s.fold bs).ovr = s.ovr := by
  unfold State.fold; split <;> rfl
@[simp] theorem State.fold_xferCount (bs : List Byte) : (s.fold bs).xferCount = s.xferCount := by
  unfold State.fold; split <;> rfl
@[simp] theorem State.fold_rxCount (bs : List Byte) : (s.fold bs).rxCount = s.rxCount := by
  unfold State.fold; split <;> rfl
@[simp] theorem State.fold_result (bs : List Byte) : (s.fold bs).result = s.result := by
  unfold State.fold; split <;> rfl
@[simp] theorem State.fold_caps (bs : List Byte) : (s.fold bs).caps = s.caps := by
  unfold State.fold; split <;> rfl
@[simp] theorem State.fold_buf (bs : List Byte) : (s.fold bs).buf = s.buf := by
  unfold State.fold; split <;> rfl
@[simp] theorem State.fold_seq (bs : List Byte) : (s.fold bs).seq = s.seq := by
  unfold State.fold; split <;> rfl
@[simp] theorem State.fold_busLog (bs : List Byte) : (s.fold bs).busLog = s.busLog := by
  unfold State.fold; split <;> rfl
@[simp] theorem State.fold_answers (bs : List Byte) : (s.fold bs).answers = s.answers := by
  unfold State.fold; split <;> rfl
@[simp] theorem State.fold_schedule (bs : List Byte) : (s.fold bs).schedule = s.schedule := by
  unfold State.fold; split <;> rfl
@[simp] theorem State.fold_draws (bs : List Byte) : (s.fold bs).draws = s.draws := by
  unfold State.fold; split <;> rfl
@[simp] theorem State.fold_powerOn (bs : List Byte) : (s.fold bs).powerOn = s.powerOn := by
  unfold State.fold; split <;> rfl
@[simp] theorem State.fold_host (bs : List Byte) : (s.fold bs).host = s.host := by
  unfold State.fold; split <;> rfl

/-! ### abort -/

@[simp] theorem State.abort_cmd (r : Response) : (s.abort r).cmd = s.cmd := rfl
@[simp] theorem State.abort_code (r : Response) : (s.abort r).code = s.code := rfl
@[simp] theorem State.abort_busy (r : Response) : (s.abort r).busy = s.busy := rfl
@[simp] theorem State.abort_ovr (r : Response) : (s.abort r).ovr = s.ovr := rfl
@[simp] theorem State.abort_xferCount (r : Response) : (s.abort r).xferCount = s.xferCount := rfl
@[simp] theorem State.abort_rxCount (r : Response) : (s.abort r).rxCount = s.rxCount := rfl
@[simp] theorem State.abort_result (r : Response) : (s.abort r).result = s.result := rfl
@[simp] theorem State.abort_acc (r : Response) : (s.abort r).acc = s.acc := rfl
@[simp] theorem State.abort_caps (r : Response) : (s.abort r).caps = s.caps := rfl
@[simp] theorem State.abort_buf (r : Response) : (s.abort r).buf = s.buf := rfl
@[simp] theorem State.abort_busLog (r : Response) : (s.abort r).busLog = s.busLog := rfl
@[simp] theorem State.abort_answers (r : Response) : (s.abort r).answers = s.answers := rfl
@[simp] theorem State.abort_schedule (r : Response) : (s.abort r).schedule = s.schedule := rfl
@[simp] theorem State.abort_draws (r : Response) : (s.abort r).draws = s.draws := rfl
@[simp] theorem State.abort_powerOn (r : Response) : (s.abort r).powerOn = s.powerOn := rfl
@[simp] theorem State.abort_host (r : Response) : (s.abort r).host = s.host := rfl

/-! ### nextByte -/

@[simp] theorem State.nextByte_cmd (c : Chunk) : (s.nextByte c).cmd = s.cmd := rfl
@[simp] theorem State.nextByte_code (c : Chunk) : (s.nextByte c).code = s.code := rfl
@[simp] theorem State.nextByte_busy (c : Chunk) : (s.nextByte c).busy = s.busy := rfl
@[simp] theorem State.nextByte_ovr (c : Chunk) : (s.nextByte c).ovr = s.ovr := rfl
@[simp] theorem State.nextByte_xferCount (c : Chunk) : (s.nextByte c).xferCount = s.xferCount := rfl
@[simp] theorem State.nextByte_rxCount (c : Chunk) : (s.nextByte c).rxCount = s.rxCount := rfl
@[simp] theorem State.nextByte_result (c : Chunk) : (s.nextByte c).result = s.result := rfl
@[simp] theorem State.nextByte_acc (c : Chunk) : (s.nextByte c).acc = s.acc := rfl
@[simp] theorem State.nextByte_caps (c : Chunk) : (s.nextByte c).caps = s.caps := rfl
@[simp] theorem State.nextByte_buf (c : Chunk) : (s.nextByte c).buf = s.buf := rfl
@[simp] theorem State.nextByte_busLog (c : Chunk) : (s.nextByte c).busLog = s.busLog := rfl
@[simp] theorem State.nextByte_answers (c : Chunk) : (s.nextByte c).answers = s.answers := rfl
@[simp] theorem State.nextByte_schedule (c : Chunk) : (s.nextByte c).schedule = s.schedule := rfl
@[simp] theorem State.nextByte_draws (c : Chunk) : (s.nextByte c).draws = s.draws := rfl
@[simp] theorem State.nextByte_powerOn (c : Chunk) : (s.nextByte c).powerOn = s.powerOn := rfl
@[simp] theorem State.nextByte_host (c : Chunk) : (s.nextByte c).host = s.host := rfl

/-! ### countChunk -/

@[simp] theorem State.countChunk_cmd (c : Chunk) : (s.countChunk c).cmd = s.cmd := by
  unfold State.countChunk; split <;> rfl
@[simp] theorem State.countChunk_code (c : Chunk) : (s.countChunk c).code = s.code := by
  unfold State.countChunk; split <;> rfl
@[simp] theorem State.countChunk_busy (c : Chunk) : (s.countChunk c).busy = s.busy := by
  unfold State.countChunk; split <;> rfl
@[simp] theorem State.countChunk_ovr (c : Chunk) : (s.countChunk c).ovr = s.ovr := by
  unfold State.countChunk; split <;> rfl
@[simp] theorem State.countChunk_xferCount (c : Chunk) : (s.countChunk c).xferCount = s.xferCount := by
  unfold State.countChunk; split <;> rfl
@[simp] theorem State.countChunk_rxCount (c : Chunk) : (s.countChunk c).rxCount = s.rxCount := by
  unfold State.countChunk; split <;> rfl
@[simp] theorem State.countChunk_result (c : Chunk) : (s.countChunk c).result = s.result := by
  unfold State.countChunk; split <;> rfl
@[simp] theorem State.countChunk_acc (c : Chunk) : (s.countChunk c).acc = s.acc := by
  unfold State.countChunk; split <;> rfl
@[simp] theorem State.countChunk_caps (c : Chunk) : (s.countChunk c).caps = s.caps := by
  unfold State.countChunk; split <;> rfl
@[simp] theorem State.countChunk_buf (c : Chunk) : (s.countChunk c).buf = s.buf := by
  unfold State.countChunk; split <;> rfl
@[simp] theorem State.countChunk_busLog (c : Chunk) : (s.countChunk c).busLog = s.busLog := by
  unfold State.countChunk; split <;> rfl
@[simp] theorem State.countChunk_answers (c : Chunk) : (s.countChunk c).answers = s.answers := by
  unfold State.countChunk; split <;> rfl
@[simp] theorem State.countChunk_schedule (c : Chunk) : (s.countChunk c).schedule = s.schedule := by
  unfold State.countChunk; split <;> rfl
@[simp] theorem State.countChunk_draws (c : Chunk) : (s.countChunk c).draws = s.draws := by
  unfold State.countChunk; split <;> rfl
@[simp] theorem State.countChunk_powerOn (c : Chunk) : (s.countChunk c).powerOn = s.powerOn := by
  unfold State.countChunk; split <;> rfl
@[simp] theorem State.countChunk_host (c : Chunk) : (s.countChunk c).host = s.host := by
  unfold State.countChunk; split <;> rfl

/-! ### nextChunk -/

@[simp] theorem State.nextChunk_cmd : s.nextChunk.cmd = s.cmd := rfl
@[simp] theorem State.nextChunk_code : s.nextChunk.code = s.code := rfl
@[simp] theorem State.nextChunk_busy : s.nextChunk.busy = s.busy := rfl
@[simp] theorem State.nextChunk_ovr : s.nextChunk.ovr = s.ovr := rfl
@[simp] theorem State.nextChunk_xferCount : s.nextChunk.xferCount = s.xferCount := rfl
@[simp] theorem State.nextChunk_rxCount : s.nextChunk.rxCount = s.rxCount := rfl
@[simp] theorem State.nextChunk_result : s.nextChunk.result = s.result := rfl
@[simp] theorem State.nextChunk_acc : s.nextChunk.acc = s.acc := rfl
@[simp] theorem State.nextChunk_caps : s.nextChunk.caps = s.caps := rfl
@[simp] theorem State.nextChunk_buf : s.nextChunk.buf = s.buf := rfl
@[simp] theorem State.nextChunk_busLog : s.nextChunk.busLog = s.busLog := rfl
@[simp] theorem State.nextChunk_answers : s.nextChunk.answers = s.answers := rfl
@[simp] theorem State.nextChunk_schedule : s.nextChunk.schedule = s.schedule := rfl
@[simp] theorem State.nextChunk_draws : s.nextChunk.draws = s.draws := rfl
@[simp] theorem State.nextChunk_powerOn : s.nextChunk.powerOn = s.powerOn := rfl
@[simp] theorem State.nextChunk_host : s.nextChunk.host = s.host := rfl

/-! ### complete -/

@[simp] theorem State.complete_cmd (st : Code) (d : Dir) : (s.complete st d).cmd = s.cmd := by
  unfold State.complete; cases st <;> cases d <;> rfl
@[simp] theorem State.complete_ovr (st : Code) (d : Dir) : (s.complete st d).ovr = s.ovr := by
  unfold State.complete; cases st <;> cases d <;> rfl
@[simp] theorem State.complete_result (st : Code) (d : Dir) : (s.complete st d).result = s.result := by
  unfold State.complete; cases st <;> cases d <;> rfl
@[simp] theorem State.complete_acc (st : Code) (d : Dir) : (s.complete st d).acc = s.acc := by
  unfold State.complete; cases st <;> cases d <;> rfl
@[simp] theorem State.complete_caps (st : Code) (d : Dir) : (s.complete st d).caps = s.caps := by
  unfold State.complete; cases st <;> cases d <;> rfl
@[simp] theorem State.complete_buf (st : Code) (d : Dir) : (s.complete st d).buf = s.buf := by
  unfold State.complete; cases st <;> cases d <;> rfl
@[simp] theorem State.complete_busLog (st : Code) (d : Dir) : (s.complete st d).busLog = s.busLog := by
  unfold State.complete; cases st <;> cases d <;> rfl
@[simp] theorem State.complete_answers (st : Code) (d : Dir) : (s.complete st d).answers = s.answers := by
  unfold State.complete; cases st <;> cases d <;> rfl
@[simp] theorem State.complete_schedule (st : Code) (d : Dir) : (s.complete st d).schedule = s.schedule := by
  unfold State.complete; cases st <;> cases d <;> rfl
@[simp] theorem State.complete_draws (st : Code) (d : Dir) : (s.complete st d).draws = s.draws := by
  unfold State.complete; cases st <;> cases d <;> rfl
@[simp] theorem State.complete_powerOn (st : Code) (d : Dir) : (s.complete st d).powerOn = s.powerOn := by
  unfold State.complete; cases st <;> cases d <;> rfl
@[simp] theorem State.complete_host (st : Code) (d : Dir) : (s.complete st d).host = s.host := by
  unfold State.complete; cases st <;> cases d <;> rfl

/-! ### endOfChunk -/

@[simp] theorem State.endOfChunk_cmd (c : Chunk) : (s.endOfChunk c).cmd = s.cmd := by
  unfold State.endOfChunk; split <;> (try split) <;> simp
@[simp] theorem State.endOfChunk_ovr (c : Chunk) : (s.endOfChunk c).ovr = s.ovr := by
  unfold State.endOfChunk; split <;> (try split) <;> simp
@[simp] theorem State.endOfChunk_result (c : Chunk) : (s.endOfChunk c).result = s.result := by
  unfold State.endOfChunk; split <;> (try split) <;> simp
@[simp] theorem State.endOfChunk_acc (c : Chunk) : (s.endOfChunk c).acc = s.acc := by
  unfold State.endOfChunk; split <;> (try split) <;> simp
@[simp] theorem State.endOfChunk_caps (c : Chunk) : (s.endOfChunk c).caps = s.caps := by
  unfold State.endOfChunk; split <;> (try split) <;> simp
@[simp] theorem State.endOfChunk_buf (c : Chunk) : (s.endOfChunk c).buf = s.buf := by
  unfold State.endOfChunk; split <;> (try split) <;> simp
@[simp] theorem State.endOfChunk_busLog (c : Chunk) : (s.endOfChunk c).busLog = s.busLog := by
  unfold State.endOfChunk; split <;> (try split) <;> simp
@[simp] theorem State.endOfChunk_answers (c : Chunk) : (s.endOfChunk c).answers = s.answers := by
  unfold State.endOfChunk; split <;> (try split) <;> simp
@[simp] theorem State.endOfChunk_schedule (c : Chunk) : (s.endOfChunk c).schedule = s.schedule := by
  unfold State.endOfChunk; split <;> (try split) <;> simp
@[simp] theorem State.endOfChunk_draws (c : Chunk) : (s.endOfChunk c).draws = s.draws := by
  unfold State.endOfChunk; split <;> (try split) <;> simp
@[simp] theorem State.endOfChunk_powerOn (c : Chunk) : (s.endOfChunk c).powerOn = s.powerOn := by
  unfold State.endOfChunk; split <;> (try split) <;> simp
@[simp] theorem State.endOfChunk_host (c : Chunk) : (s.endOfChunk c).host = s.host := by
  unfold State.endOfChunk; split <;> (try split) <;> simp

/-! ### What they write -/

/-- Folding happens when the request's PEC bit is 1, and only then (42_transaction_driver.md R164). -/
theorem State.fold_acc (bs : List Byte) :
    (s.fold bs).acc = if s.seq.req.pec then crc8 s.acc bs else s.acc := by
  unfold State.fold; split <;> rfl

@[simp] theorem State.complete_code (st : Code) (d : Dir) : (s.complete st d).code = st := rfl

@[simp] theorem State.complete_busy (st : Code) (d : Dir) : (s.complete st d).busy = false := rfl

@[simp] theorem State.complete_seq (st : Code) (d : Dir) :
    (s.complete st d).seq = { s.seq with phase := .idle } := rfl

/-- Completion after a write chunk's failure: both counts 0 (43_facade.md R201). -/
theorem State.complete_counts_write {st : Code} (h : st ≠ .success) :
    (s.complete st .W).xferCount = 0#16 ∧ (s.complete st .W).rxCount = 0#16 := by
  unfold State.complete; cases st <;> simp_all

/-- Completion otherwise: the bytes moved and the bytes received (43_facade.md R201). -/
theorem State.complete_counts {st : Code} {d : Dir} (h : st = .success ∨ d = .R) :
    (s.complete st d).xferCount = BitVec.ofNat 16 (s.seq.tx + s.seq.rx) ∧
      (s.complete st d).rxCount = BitVec.ofNat 16 s.seq.rx := by
  unfold State.complete; cases st <;> cases d <;> simp_all

@[simp] theorem State.nextChunk_seq :
    s.nextChunk.seq = { s.seq with k := s.seq.k + 1, i := 0, fail := none, phase := .addr } := rfl

@[simp] theorem State.abort_seq (r : Response) :
    (s.abort r).seq = { s.seq with fail := failOf r, phase := .abortStop } := rfl

/-- Counting a chunk touches seq.tx and seq.rx only. -/
theorem State.countChunk_seq (c : Chunk) :
    (s.countChunk c).seq =
      { s.seq with
        tx := s.seq.tx + dirBytesOf .W c, rx := s.seq.rx + dirBytesOf .R c } := by
  unfold State.countChunk dirBytesOf; cases c.dir <;> rfl

end Sys2Proof.Machine
end

