-- ==== Sys2Proof/Laws/PerInstr.lean ====
section
/-! SUPPORT. Statements for all instructions, one lemma per constructor: the word of an instruction, well-formed
or not, lies in the instruction's row of spec/opcode_table.json. -/

namespace Sys2Proof.Laws.EncodeInRow

/-- The encoded word has the pattern of the instruction's row under the row's mask. -/
def Statement (i : Instr) : Prop := i.row.covers (encode i) = true

theorem nop : Statement .nop := rfl

theorem reset : Statement .reset := rfl

theorem queryCaps : Statement .queryCaps := rfl

theorem startW (pec a10 : Bool) (addr : BitVec 10) (wlen : BitVec 8) :
    Statement (.startW pec a10 addr wlen) := by
  simp only [Statement, OpcodeRow.covers, Instr.row, encode, beq_iff_eq]
  refine BitVec.eq_of_getLsbD_eq fun j hj => ?_
  simp only [BitVec.getLsbD_and, BitVec.getLsbD_append]
  interval_cases j <;> simp

theorem startR (pec a10 : Bool) (addr : BitVec 10) (rlen : BitVec 8) :
    Statement (.startR pec a10 addr rlen) := by
  simp only [Statement, OpcodeRow.covers, Instr.row, encode, beq_iff_eq]
  refine BitVec.eq_of_getLsbD_eq fun j hj => ?_
  simp only [BitVec.getLsbD_and, BitVec.getLsbD_append]
  interval_cases j <;> simp

theorem startWR (pec a10 : Bool) (addr : BitVec 10) (wlen rlen : BitVec 8) :
    Statement (.startWR pec a10 addr wlen rlen) := by
  simp only [Statement, OpcodeRow.covers, Instr.row, encode, beq_iff_eq]
  refine BitVec.eq_of_getLsbD_eq fun j hj => ?_
  simp only [BitVec.getLsbD_and, BitVec.getLsbD_append]
  interval_cases j <;> simp

theorem crcUpdate (prev data : Byte) : Statement (.crcUpdate prev data) := by
  simp only [Statement, OpcodeRow.covers, Instr.row, encode, beq_iff_eq]
  refine BitVec.eq_of_getLsbD_eq fun j hj => ?_
  simp only [BitVec.getLsbD_and, BitVec.getLsbD_append]
  interval_cases j <;> simp

theorem crcFinalize (init : Byte) (off len : BitVec 8) : Statement (.crcFinalize init off len) := by
  simp only [Statement, OpcodeRow.covers, Instr.row, encode, beq_iff_eq]
  refine BitVec.eq_of_getLsbD_eq fun j hj => ?_
  simp only [BitVec.getLsbD_and, BitVec.getLsbD_append]
  interval_cases j <;> simp

theorem crcVerify (expect : Byte) (off len : BitVec 8) : Statement (.crcVerify expect off len) := by
  simp only [Statement, OpcodeRow.covers, Instr.row, encode, beq_iff_eq]
  refine BitVec.eq_of_getLsbD_eq fun j hj => ?_
  simp only [BitVec.getLsbD_and, BitVec.getLsbD_append]
  interval_cases j <;> simp

theorem reserved9 (body : BitVec 28) : Statement (.reserved9 body) := by
  simp only [Statement, OpcodeRow.covers, Instr.row, encode, beq_iff_eq]
  refine BitVec.eq_of_getLsbD_eq fun j hj => ?_
  simp only [BitVec.getLsbD_and, BitVec.getLsbD_append]
  interval_cases j <;> simp

theorem reservedAB (body : BitVec 29) : Statement (.reservedAB body) := by
  simp only [Statement, OpcodeRow.covers, Instr.row, encode, beq_iff_eq]
  refine BitVec.eq_of_getLsbD_eq fun j hj => ?_
  simp only [BitVec.getLsbD_and, BitVec.getLsbD_append]
  interval_cases j <;> simp

theorem reservedCF (body : BitVec 30) : Statement (.reservedCF body) := by
  simp only [Statement, OpcodeRow.covers, Instr.row, encode, beq_iff_eq]
  refine BitVec.eq_of_getLsbD_eq fun j hj => ?_
  simp only [BitVec.getLsbD_and, BitVec.getLsbD_append]
  interval_cases j <;> simp

end Sys2Proof.Laws.EncodeInRow
end

