-- ==== Sys2Proof/Laws/Segmenter.lean ====
section
/-! SUPPORT. What one part of the chunk plan is, and what marking the final chunk changes
(spec/41_segmenter.md R140). -/

namespace Sys2Proof.Machine

variable {d : Dir} {limit : Nat}

/-! ## One part: splitPart -/

@[simp] theorem splitPart_zero (d : Dir) (limit fuel start : Nat) :
    splitPart d limit fuel start 0 = [] := by
  cases fuel <;> simp [splitPart]

/-- The lengths of a part's chunks sum to the part's length. -/
theorem splitPart_sum (pos : 1 ≤ limit) {fuel n : Nat} (start : Nat) (enough : n ≤ fuel) :
    ((splitPart d limit fuel start n).map Chunk.len).sum = n := by
  induction fuel generalizing start n with
  | zero => simp [Nat.le_zero.mp enough]
  | succ fuel ih =>
    unfold splitPart
    split_ifs with h0
    · simp [h0]
    · rw [List.map_cons, List.sum_cons, ih _ (by omega)]
      simp only
      omega

/-- Each chunk of a part has its direction, 1 to limit bytes, and is not yet final. -/
theorem splitPart_mem (pos : 1 ≤ limit) {fuel start n : Nat} {c : Chunk}
    (h : c ∈ splitPart d limit fuel start n) :
    c.dir = d ∧ 1 ≤ c.len ∧ c.len ≤ limit ∧ c.final = false := by
  induction fuel generalizing start n with
  | zero => simp [splitPart] at h
  | succ fuel ih =>
    unfold splitPart at h
    split_ifs at h with h0
    · simp at h
    · rcases List.mem_cons.mp h with rfl | h
      · simp; omega
      · exact ih h

/-- A chunk of a part starts where the chunks before it end. -/
theorem splitPart_start {fuel start n j : Nat} {c : Chunk}
    (h : (splitPart d limit fuel start n)[j]? = some c) :
    c.start = start + (((splitPart d limit fuel start n).take j).map Chunk.len).sum := by
  induction fuel generalizing start n j with
  | zero => simp [splitPart] at h
  | succ fuel ih =>
    unfold splitPart at h ⊢
    split_ifs at h ⊢ with h0
    · simp at h
    · cases j with
      | zero => simp at h; simp [← h]
      | succ j =>
        simp only [List.getElem?_cons_succ] at h
        simp only [List.take_succ_cons, List.map_cons, List.sum_cons]
        rw [ih h]
        omega

/-- A part of n bytes has ceil(n / limit) chunks. -/
theorem splitPart_length (pos : 1 ≤ limit) {fuel n : Nat} (start : Nat) (enough : n ≤ fuel) :
    (splitPart d limit fuel start n).length = (n + limit - 1) / limit := by
  induction fuel generalizing start n with
  | zero =>
    obtain rfl := Nat.le_zero.mp enough
    rw [splitPart_zero, List.length_nil, Nat.div_eq_of_lt (by omega)]
  | succ fuel ih =>
    unfold splitPart
    split_ifs with h0
    · subst h0; rw [List.length_nil, Nat.div_eq_of_lt (by omega)]
    · rw [List.length_cons, ih _ (by omega)]
      rcases Nat.le_total n limit with h | h
      · rw [min_eq_left h, show n + limit - 1 = (n - 1) + limit by omega,
          Nat.add_div_right _ (by omega), Nat.div_eq_of_lt (by omega), Nat.div_eq_of_lt (by omega)]
      · rw [min_eq_right h, show n + limit - 1 = (n - limit + limit - 1) + limit by omega,
          Nat.add_div_right _ (by omega)]

/-- Every chunk of a part but its last is full. -/
theorem splitPart_full (pos : 1 ≤ limit) {fuel start n j : Nat} {c : Chunk} (enough : n ≤ fuel)
    (h : (splitPart d limit fuel start n)[j]? = some c)
    (hj : j + 1 < (splitPart d limit fuel start n).length) : c.len = limit := by
  induction fuel generalizing start n j with
  | zero => simp [splitPart] at h
  | succ fuel ih =>
    unfold splitPart at h hj
    split_ifs at h hj with h0
    · simp at h
    · cases j with
      | zero =>
        simp only [List.getElem?_cons_zero, Option.some.injEq] at h
        rw [← h]
        by_contra hne
        rw [show n - min n limit = 0 by simp only at hne; omega] at hj
        simp at hj
      | succ j =>
        simp only [List.getElem?_cons_succ, List.length_cons] at h hj
        exact ih (by omega) h (by omega)

/-! ## The final chunk: markFinal -/

@[simp] theorem markFinal_length (cs : List Chunk) : (markFinal cs).length = cs.length := by
  induction cs using markFinal.induct <;> simp_all [markFinal]

/-- Marking changes the final flag of the last chunk only. -/
theorem markFinal_getElem? (cs : List Chunk) (j : Nat) :
    (markFinal cs)[j]? =
      cs[j]?.map (fun c => if j + 1 = cs.length then { c with final := true } else c) := by
  induction cs using markFinal.induct generalizing j with
  | case1 => simp [markFinal]
  | case2 c => cases j <;> simp [markFinal]
  | case3 c d rest ih =>
    cases j with
    | zero => simp [markFinal]
    | succ j => simp only [markFinal, List.getElem?_cons_succ, ih]; simp

/-- What does not look at the final flag does not see the marking. -/
theorem markFinal_map {β : Type} (f : Chunk → β) (hf : ∀ c b, f { c with final := b } = f c)
    (cs : List Chunk) : (markFinal cs).map f = cs.map f := by
  induction cs using markFinal.induct <;> simp_all [markFinal]

/-- Marking a list of two parts marks the last non-empty part. -/
theorem markFinal_append (ws rs : List Chunk) :
    markFinal (ws ++ rs) = if rs = [] then markFinal ws else ws ++ markFinal rs := by
  induction ws with
  | nil => cases rs <;> simp [markFinal]
  | cons w ws ih =>
    cases ws with
    | nil => cases rs <;> simp [markFinal]
    | cons w' ws => simp only [List.cons_append, markFinal] at ih ⊢; rw [ih]; split_ifs <;> rfl

end Sys2Proof.Machine
end

