-- ==== Sys2Proof/Laws/Steps.lean ====
section
/-! SUPPORT. The inversion lemmas of the micro-step, of a host statement and of a step of the machine:
every way in which each can go on. -/

namespace Sys2Proof.Machine

variable {s t : State}

/-! ## The micro-step, phase by phase (42_transaction_driver.md R160) -/

section
variable {c : Chunk} (a : BusAnswer) (hc : s.currentChunk = some c)
include hc

theorem microStep_addr (hp : s.seq.phase = .addr) : microStep a s = .next (addrPhase c a s) := by
  simp [microStep, hc, hp]

theorem microStep_dataWrite (hp : s.seq.phase = .data) (hd : c.dir = .W) :
    microStep a s = dataWritePhase c a s := by
  simp [microStep, hc, hp, hd]

theorem microStep_dataRead (hp : s.seq.phase = .data) (hd : c.dir = .R) :
    microStep a s = dataReadPhase c a s := by
  simp [microStep, hc, hp, hd]

theorem microStep_pecWrite (hp : s.seq.phase = .pec) (hd : c.dir = .W) :
    microStep a s = .next (pecWritePhase a s) := by
  simp [microStep, hc, hp, hd]

theorem microStep_pecRead (hp : s.seq.phase = .pec) (hd : c.dir = .R) :
    microStep a s = .next (pecReadPhase a s) := by
  simp [microStep, hc, hp, hd]

theorem microStep_stop (hp : s.seq.phase = .stop) : microStep a s = .next (stopPhase c a s) := by
  simp [microStep, hc, hp]

theorem microStep_abortStop (hp : s.seq.phase = .abortStop) :
    microStep a s = .next (abortStopPhase c a s) := by
  simp [microStep, hc, hp]

end

/-- The downstream request of the micro-step of the current phase, in chunk c
(42_transaction_driver.md R163, R166 to R171). -/
def State.primitive (s : State) (c : Chunk) : Option BusRequest :=
  match s.seq.phase, c.dir with
  | .idle, _ => none
  | .addr, d => some (.startCycle (addrBytes s.seq.req.addr s.seq.req.a10 d.rw))
  | .data, .W => (s.buf.read (c.start + s.seq.i)).map .writeByte
  | .data, .R => some (.readByte (s.lastDataRead c))
  | .pec, .W => some (.writeByte s.acc)
  | .pec, .R => some (.readByte true)
  | .stop, _ => some .stopCycle
  | .abortStop, _ => some .stopCycle

/-- No micro-step issues a busReset (10_state.md R44). -/
theorem State.primitive_ne_busReset (s : State) (c : Chunk) : s.primitive c ≠ some .busReset := by
  unfold State.primitive
  split <;> simp

/-- Every way in which a micro-step of chunk c, answered by a, goes on. -/
inductive MicroNext (c : Chunk) (a : BusAnswer) (s : State) : State → Prop
  /-- Phase Idle: no micro-step. -/
  | idle (hp : s.seq.phase = .idle) : MicroNext c a s s
  /-- The address phase answered Ok (R163). -/
  | addrOk (hp : s.seq.phase = .addr) (ok : a.resp = .ok) :
      MicroNext c a s
        (((s.issue (.startCycle (addrBytes s.seq.req.addr s.seq.req.a10 c.dir.rw)) a).fold
          (addrBytes s.seq.req.addr s.seq.req.a10 c.dir.rw)).setSeq
            { s.seq with i := 0, phase := .data })
  /-- A data byte written (R166). -/
  | wroteOk (b : Byte) (hp : s.seq.phase = .data) (hd : c.dir = .W) (ok : a.resp = .ok)
      (inBuf : c.start + s.seq.i < s.caps.bufCap) (hb : s.buf.read (c.start + s.seq.i) = some b) :
      MicroNext c a s (((s.issue (.writeByte b) a).fold [b]).nextByte c)
  /-- A data byte read and stored (R167). -/
  | readOk (hp : s.seq.phase = .data) (hd : c.dir = .R) (ok : a.resp = .ok)
      (inBuf : c.start + s.seq.i < s.caps.bufCap) :
      MicroNext c a s
        ((((s.issue (.readByte (s.lastDataRead c)) a).setBuf
          (s.buf.write (c.start + s.seq.i) a.byte)).fold [a.byte]).nextByte c)
  /-- The PEC byte written (R168). -/
  | pecWrote (hp : s.seq.phase = .pec) (hd : c.dir = .W) (ok : a.resp = .ok) :
      MicroNext c a s ((s.issue (.writeByte s.acc) a).setSeq { s.seq with phase := .stop })
  /-- The PEC byte read and compared (R169). -/
  | pecRead (hp : s.seq.phase = .pec) (hd : c.dir = .R) (ok : a.resp = .ok) :
      MicroNext c a s
        ((s.issue (.readByte true) a).setSeq
          { s.seq with
            fail := if a.byte = s.acc then s.seq.fail else some .checksumMismatch
            phase := .stop })
  /-- A start, data or PEC primitive that failed (R163, R166 to R169). -/
  | failed (q : BusRequest) (hq : s.primitive c = some q)
      (hp : s.seq.phase = .addr ∨ s.seq.phase = .data ∨ s.seq.phase = .pec) (bad : a.resp ≠ .ok) : MicroNext c a s ((s.issue q a).abort a.resp)
  /-- The stop of a cycle that has not aborted (R170). -/
  | stopped (hp : s.seq.phase = .stop) :
      MicroNext c a s
        (((s.issue .stopCycle a).setSeq
          { s.seq with fail := s.seq.fail.or (failOf a.resp) }).endOfChunk c)
  /-- The stop after a failed primitive (R171). -/
  | aborted (hp : s.seq.phase = .abortStop) :
      MicroNext c a s ((s.issue .stopCycle a).endOfChunk c)

/-- A failed primitive, by its response. -/
theorem microNext_failed {c : Chunk} {a : BusAnswer} {r : Response} (hr : a.resp = r)
    (bad : r ≠ .ok) {q : BusRequest} (hq : s.primitive c = some q)
    (hp : s.seq.phase = .addr ∨ s.seq.phase = .data ∨ s.seq.phase = .pec) :
    MicroNext c a s ((s.issue q a).abort r) := by
  subst hr; exact .failed q hq hp bad

/-- The inversion lemma of the micro-step. -/
theorem microStep_next {a : BusAnswer} (h : microStep a s = .next t) :
    ∃ c, s.currentChunk = some c ∧ MicroNext c a s t := by
  cases hc : s.currentChunk with
  | none => simp [microStep, hc] at h
  | some c =>
    refine ⟨c, rfl, ?_⟩
    cases hp : s.seq.phase with
    | idle =>
      simp only [microStep, hc, hp] at h
      cases h; exact .idle hp
    | addr =>
      rw [microStep_addr a hc hp] at h
      cases h
      unfold addrPhase
      cases hr : a.resp with
      | ok => simpa using MicroNext.addrOk hp hr
      | noAck => exact microNext_failed hr (by simp) (by simp [State.primitive, hp]) (.inl hp)
      | timeout => exact microNext_failed hr (by simp) (by simp [State.primitive, hp]) (.inl hp)
    | data =>
      cases hd : c.dir with
      | W =>
        rw [microStep_dataWrite a hc hp hd] at h
        unfold dataWritePhase at h
        cases hm : s.memRead (c.start + s.seq.i) with
        | error f => simp [hm] at h
        | ok b =>
          obtain ⟨h1, h2⟩ := State.memRead_ok.mp hm
          cases hr : a.resp with
          | ok => simp only [hm, hr] at h; cases h; exact .wroteOk b hp hd hr h1 h2
          | noAck =>
            simp only [hm, hr] at h; cases h
            exact microNext_failed hr (by simp) (by simp [State.primitive, *]) (.inr (.inl hp))
          | timeout =>
            simp only [hm, hr] at h; cases h
            exact microNext_failed hr (by simp) (by simp [State.primitive, *]) (.inr (.inl hp))
      | R =>
        rw [microStep_dataRead a hc hp hd] at h
        unfold dataReadPhase at h
        cases hr : a.resp with
        | ok =>
          cases hm : (s.issue (.readByte (s.lastDataRead c)) a).memWrite (c.start + s.seq.i) a.byte with
          | error f => simp [hm, hr] at h
          | ok u =>
            obtain ⟨h1, rfl⟩ := State.memWrite_ok.mp hm
            simp only [State.issue_seq, hm, hr] at h
            cases h; exact .readOk hp hd hr h1
        | noAck =>
          simp only [hr] at h; cases h
          exact microNext_failed hr (by simp) (by simp [State.primitive, *]) (.inr (.inl hp))
        | timeout =>
          simp only [hr] at h; cases h
          exact microNext_failed hr (by simp) (by simp [State.primitive, *]) (.inr (.inl hp))
    | pec =>
      cases hd : c.dir with
      | W =>
        rw [microStep_pecWrite a hc hp hd] at h
        cases h
        unfold pecWritePhase
        cases hr : a.resp with
        | ok => exact .pecWrote hp hd hr
        | noAck => exact microNext_failed hr (by simp) (by simp [State.primitive, *]) (.inr (.inr hp))
        | timeout => exact microNext_failed hr (by simp) (by simp [State.primitive, *]) (.inr (.inr hp))
      | R =>
        rw [microStep_pecRead a hc hp hd] at h
        cases h
        unfold pecReadPhase
        cases hr : a.resp with
        | ok => exact .pecRead hp hd hr
        | noAck => exact microNext_failed hr (by simp) (by simp [State.primitive, *]) (.inr (.inr hp))
        | timeout => exact microNext_failed hr (by simp) (by simp [State.primitive, *]) (.inr (.inr hp))
    | stop =>
      rw [microStep_stop a hc hp] at h
      cases h
      have := MicroNext.stopped (c := c) (a := a) hp
      unfold stopPhase
      cases hf : s.seq.fail <;> simpa [hf] using this
    | abortStop =>
      rw [microStep_abortStop a hc hp] at h
      cases h; exact .aborted hp

/-- A micro-step is never refused, and it stops only on a missing current chunk, on an unwritten byte or
on an index outside BUF, the last two in the data phase. -/
theorem microStep_stops {a : BusAnswer} :
    (∀ r, microStep a s ≠ .refused r) ∧
      ∀ f, microStep a s = .fault f →
        (s.currentChunk = none ∧ f = .noCurrentChunk) ∨
        ∃ c, s.currentChunk = some c ∧ s.seq.phase = .data ∧
          ((s.caps.bufCap ≤ c.start + s.seq.i ∧ f = .bufIndexOutOfRange (c.start + s.seq.i)) ∨
           (c.dir = .W ∧ s.buf.read (c.start + s.seq.i) = none ∧
             f = .unwrittenRead (c.start + s.seq.i))) := by
  cases hc : s.currentChunk with
  | none => simp [microStep, hc, eq_comm]
  | some c =>
    cases hp : s.seq.phase <;> cases hd : c.dir <;> simp only [microStep, hc, hp, hd] <;>
      try simp
    · unfold dataWritePhase
      cases hm : s.memRead (c.start + s.seq.i) with
      | error g =>
        rcases State.memRead_error.mp hm with ⟨h1, rfl⟩ | ⟨h1, h2, rfl⟩ <;> simp [*, eq_comm]
      | ok b => cases hr : a.resp <;> simp
    · unfold dataReadPhase
      cases hr : a.resp with
      | ok =>
        cases hm : (s.issue (.readByte (s.lastDataRead c)) a).memWrite (c.start + s.seq.i) a.byte with
        | ok u => simp [hm]
        | error g =>
          obtain ⟨h1, rfl⟩ := State.memWrite_error.mp hm
          simp only [State.issue_caps] at h1
          simp [hm, h1, eq_comm]
      | noAck => simp
      | timeout => simp

/-! ## The host -/

/-- Every way in which a host statement goes on. -/
inductive HostNext (s : State) : State → Prop
  /-- Nothing changes: a write that a register ignores, an ignored write to a reserved BUF offset, an if
  that does not go. -/
  | same : HostNext s s
  /-- The host goes elsewhere. -/
  | jump (n : Nat) : HostNext s (s.setHostPc n)
  /-- A read. -/
  | read (t : Nat) (v : Word) : HostNext s (s.setTemp t v)
  /-- A read that drew its value. -/
  | draw (t : Nat) (v : Word) : HostNext s (s.afterDraw.setTemp t v)
  /-- A write to CMD or BUF while BUSY = 1. -/
  | overrun (busy : s.busy = true) : HostNext s (s.setOvr true)
  /-- A BUF byte written. -/
  | store (i : Nat) (b : Byte) (idle : s.busy = false) (inBuf : i < s.caps.bufCap) :
      HostNext s (s.setBuf (s.buf.write i b))
  /-- An illegal word accepted. -/
  | illegal (w : Word) (idle : s.busy = false) :
      HostNext s ((s.acceptWord w).raiseOutcome .illegalCommand)
  /-- A command accepted. -/
  | command (w : Word) (i : Instr) (t : State) (idle : s.busy = false) (hi : decode w = .ok i)
      (next : ExecNext i (s.acceptWord w) t) : HostNext s t

/-- A write to CMD goes on in one of three ways. -/
theorem commandWrite_next {w : Word} (h : commandWrite w s = .next t) : HostNext s t := by
  unfold commandWrite at h
  split_ifs at h with hb
  · cases h; exact .overrun hb
  · have hb : s.busy = false := by simpa using hb
    unfold acceptCommand at h
    cases hd : decode w with
    | error e => simp only [hd] at h; cases h; exact .illegal w hb
    | ok i => simp only [hd] at h; exact .command w i t hb hd (exec_next h)

/-- The inversion lemma of a host statement. -/
theorem hostStmt_next {st : HostStmt} (h : hostStmt st s = .next t) : HostNext s t := by
  cases st with
  | write width off v =>
    simp only [hostStmt, hostWrite] at h
    split_ifs at h with h1 h2 h3
    · exact commandWrite_next h
    · cases h; exact .same
    · cases h
      unfold bufWrite
      split_ifs with h4 h5
      · exact .same
      · exact .overrun h5
      · exact .store _ _ (by simpa using h5) (Nat.lt_of_not_le h4)
  | read width off n =>
    simp only [hostStmt, hostRead] at h
    split_ifs at h with h1 h2
    · cases h; exact .read _ _
    · cases h
      unfold bufRead
      split_ifs with h4 h5
      · exact .read _ _
      · exact .draw _ _
      · cases s.buf.read (bufIndex off)
        · exact .draw _ _
        · exact .read _ _
  | goto target => cases h; exact .jump _
  | ifEq n hi lo v target =>
    simp only [hostStmt] at h
    split_ifs at h <;> cases h
    · exact .jump _
    · exact .same
  | ifNe n hi lo v target =>
    simp only [hostStmt] at h
    split_ifs at h <;> cases h
    · exact .same
    · exact .jump _
  | halt => cases h; exact .jump _

/-! ## The machine -/

/-- The next step of a state with a placed instruction is the acceptance of its word (43_facade.md R191),
the host having moved past it. -/
theorem step_withFetchWord (s : State) (nbits w : Nat) :
    step (s.withFetchWord nbits w) =
      acceptCommand (BitVec.ofNat 32 w) ((s.withFetchWord nbits w).setHostPc 1) := rfl

/-- Every way in which a step of the machine goes on. -/
inductive StepNext (s : State) : State → Prop
  /-- Power-on reset. -/
  | powerOn (hp : s.powerOn = true) : StepNext s s.powerOnReset
  /-- The run is over. -/
  | finished (hh : s.hostEnabled = false) (hs : s.sequencerEnabled = false) : StepNext s s
  /-- The host's next statement; u is s, less the choice of the agent where both could move. -/
  | host (u t : State) (hu : u = s ∨ u = s.afterTurn)
      (next : HostNext (u.setHostPc (u.host.pc + 1)) t) : StepNext s t
  /-- The sequencer's micro-step. -/
  | sequencer (u t : State) (hu : u = s ∨ u = s.afterTurn) (busy : s.busy = true)
      (next : microStep u.nextAnswer u.takeAnswer = .next t) : StepNext s t

/-- What the choice of the agent leaves unchanged. -/
theorem State.afterTurn_frame (s : State) :
    s.afterTurn = { s with schedule := s.afterTurn.schedule, draws := s.afterTurn.draws } := by
  unfold State.afterTurn; split <;> rfl

/-- A host step goes on as a statement, or there is none. -/
theorem hostStep_next (h : hostStep s = .next t) :
    (s.host.prog[s.host.pc]? = none ∧ t = s) ∨ HostNext (s.setHostPc (s.host.pc + 1)) t := by
  unfold hostStep at h
  cases hp : s.host.prog[s.host.pc]? with
  | none => simp only [hp] at h; cases h; exact .inl ⟨rfl, rfl⟩
  | some st => simp only [hp] at h; exact .inr (hostStmt_next h)

/-- The inversion lemma of the step. -/
theorem step_next (h : step s = .next t) : StepNext s t := by
  have host : ∀ u, (u = s ∨ u = s.afterTurn) → u.hostEnabled = true → hostStep u = .next t →
      StepNext s t := fun u hu he h => by
    rcases hostStep_next h with ⟨hn, -⟩ | hn
    · have := List.getElem?_eq_none_iff.mp hn
      simp [State.hostEnabled] at he
      omega
    · exact .host u t hu hn
  have turn : s.afterTurn.hostEnabled = s.hostEnabled := by
    rw [State.afterTurn_frame]; rfl
  unfold step machineStep at h
  split_ifs at h with hp
  · cases h; exact .powerOn hp
  · cases hh : s.hostEnabled <;> cases hs : s.sequencerEnabled <;> simp only [hh, hs, agentStep] at h
    · cases h; exact .finished hh hs
    · exact .sequencer s t (.inl rfl) (by simp_all [State.sequencerEnabled]) h
    · exact host s (.inl rfl) hh h
    · cases ht : s.turn <;> simp only [ht] at h
      · exact host _ (.inr rfl) (turn.trans hh) h
      · exact .sequencer _ t (.inr rfl) (by simp_all [State.sequencerEnabled]) h

end Sys2Proof.Machine
end

