-- ==== Sys2Proof/Tests/Slice0.lean ====
section
/-! SUPPORT. The model's own tests. Expected values stand in spec/95_test_vectors.md (named V-...) or are worked
out by hand from the rule named. The last part has, for every obligation with hypotheses, a named witness that
meets them. -/

namespace Sys2Proof.Tests

open Sys2Proof Sys2Proof.Machine

/-! ## Helpers -/

/-- The next state, if the step goes on. -/
def next? (o : Host.Outcome State Fault Refusal) : Option State :=
  match o with
  | .next s => some s
  | .fault _ => none
  | .refused _ => none

/-- The fault, if the step faults. -/
def fault? (o : Host.Outcome State Fault Refusal) : Option Fault :=
  match o with
  | .next _ => none
  | .fault f => some f
  | .refused _ => none

/-- CODE and RESULT after the host writes w to CMD. -/
def codeResult (s : State) (w : Word) : Option (Code × Byte) :=
  (next? (commandWrite w s)).map fun t => (t.code, t.result)

/-- The decoded instruction. -/
def read? (w : Word) : Option Instr :=
  match decode w with
  | .ok i => some i
  | .error _ => none

/-- The check that a rejected word fails. -/
def reject? (w : Word) : Option DecodeReject :=
  match decode w with
  | .ok _ => none
  | .error e => some e

/-- A buffer with these bytes from index off on. -/
def bufOf (off : Nat) : List Byte → Memory
  | [] => []
  | b :: bs => (off, b) :: bufOf (off + 1) bs

/-- Idle, with these bytes in BUF from index 0 on. -/
def idleWith (bs : List Byte) : State := { State.reset with buf := bufOf 0 bs }

/-- Idle, with "123456789" in BUF (95 2.2). -/
def nine : State :=
  idleWith [0x31, 0x32, 0x33, 0x34, 0x35, 0x36, 0x37, 0x38, 0x39]

/-- The same without the CRC engine. -/
def noEngine : State := { nine with caps := { Config.defaultParams with hasPec := false } }

/-- START.W.PEC 0x50, 2 accepted over BUF = [10, AB]: its address phase is next (V-REQ-1). -/
def writing : State :=
  { idleWith [0x10, 0xAB] with
    busy := true
    seq :=
      { phase := .addr
        req := { op := .W, pec := true, a10 := false, addr := 0x50, wlen := 2, rlen := 0 }
        chunks := [{ dir := .W, start := 0, len := 2, final := true }]
        k := 0, i := 0, fail := none, tx := 0, rx := 0 } }

/-- START.R.PEC 0x50, 2 accepted: its address phase is next (V-REQ-2). -/
def reading : State :=
  { State.reset with
    busy := true
    seq :=
      { phase := .addr
        req := { op := .R, pec := true, a10 := false, addr := 0x50, wlen := 0, rlen := 2 }
        chunks := [{ dir := .R, start := 0, len := 2, final := true }]
        k := 0, i := 0, fail := none, tx := 0, rx := 0 } }

/-- s at another phase, byte and failure. -/
def at' (s : State) (p : Phase) (i : Nat) (f : Option ChunkFail) : State :=
  { s with seq := { s.seq with phase := p, i := i, fail := f } }

def ok (b : Byte) : BusAnswer := { resp := .ok, byte := b }
def noAck : BusAnswer := { resp := .noAck, byte := 0 }
def timeout : BusAnswer := { resp := .timeout, byte := 0 }

/-- s with the host about to run st. -/
def hostAt (s : State) (st : HostStmt) : State :=
  { s with host := { prog := [st], pc := 0, temps := [] } }

/-! ## WellFormed: an ill-formed term for each check of 30_encoding.md R88 -/

theorem test_wf_a_formatN : reservedBitsClear 0x00000001#32 = false := by decide
theorem test_wf_a_formatU : reservedBitsClear 0x60011234#32 = false := by decide
theorem test_wf_a_formatB : reservedBitsClear 0x7100FF02#32 = false := by decide
theorem test_wf_b : startWReadLenZero 0x30500101#32 = false := by decide
theorem test_wf_c : startRWriteLenZero 0x40500100#32 = false := by decide
theorem test_wf_d : startAddrFits 0x30800100#32 = false := by decide
theorem test_wf_reserved_opcode : wordWellFormed 0x90000000#32 = false := by decide
theorem test_wf_startW : (Instr.startW false false 0x080 1).wf = false := by decide
theorem test_wf_startR : (Instr.startR false false 0x100 1).wf = false := by decide
theorem test_wf_startWR : (Instr.startWR false false 0x200 1 1).wf = false := by decide
theorem test_wf_ok : wordWellFormed 0x34800100#32 = true ∧ (Instr.startW false true 0x080 1).wf = true := by
  decide

/-! ## Decoding: words written out bit by bit from the formats (30_encoding.md R81 to R85) -/

theorem test_decode_formatN :
    read? 0b0000_0000000000000000000000000000#32 = some .nop ∧
    read? 0b0001_0000000000000000000000000000#32 = some .reset ∧
    read? 0b0010_0000000000000000000000000000#32 = some .queryCaps := by decide

/-- OP, PEC, A10, ADDR, WLEN, RLEN. -/
theorem test_decode_formatS :
    read? 0b0011_1_0_0001010000_00000010_00000000#32 = some (.startW true false 0x50 2) ∧
    read? 0b0100_0_1_1111111111_00000000_00000001#32 = some (.startR false true 0x3FF 1) ∧
    read? 0b0101_1_1_1010100101_00000001_00000010#32 = some (.startWR true true 0x2A5 1 2) := by decide

/-- OP, reserved, PREV, DATA. -/
theorem test_decode_formatU :
    read? 0b0110_000000000000_00010010_00110100#32 = some (.crcUpdate 0x12 0x34) := by decide

/-- OP, reserved, INIT or EXPECT, OFF, LEN. -/
theorem test_decode_formatB :
    read? 0b0111_0000_11000010_00000100_00000101#32 = some (.crcFinalize 0xC2 4 5) ∧
    read? 0b1000_0000_11110100_00000000_00001001#32 = some (.crcVerify 0xF4 0 9) := by decide

/-- V-DEC-17 to V-DEC-19: the reserved opcodes, in their rows. -/
theorem test_decode_reserved :
    read? 0x90000000#32 = some (.reserved9 0) ∧
    read? 0xA0000001#32 = some (.reservedAB 1) ∧
    read? 0xBFFFFFFF#32 = some (.reservedAB 0x1FFFFFFF) ∧
    read? 0xC0000000#32 = some (.reservedCF 0) ∧
    read? 0xFFFFFFFF#32 = some (.reservedCF 0x3FFFFFFF) := by decide

/-- V-DEC-2, -4, -7, -9, -10, -11 and V-CMD-9, -19. -/
theorem test_decode_rejects :
    reject? 0x00000001#32 = some .reservedBitsNonzero ∧
    reject? 0x2000000F#32 = some .reservedBitsNonzero ∧
    reject? 0x30500101#32 = some .startWReadLenNonzero ∧
    reject? 0x40500100#32 = some .startRWriteLenNonzero ∧
    reject? 0x30800100#32 = some .addrTooWide ∧
    reject? 0x34800100#32 = none ∧
    reject? 0x7100FF02#32 = some .reservedBitsNonzero ∧
    reject? 0x60011234#32 = some .reservedBitsNonzero := by decide

/-- The encoder writes the words of 95 2.2, 2.4 and 2.6. -/
theorem test_encode :
    encode (.startW true false 0x50 2) = 0x38500200#32 ∧
    encode (.startR true false 0x50 2) = 0x48500002#32 ∧
    encode (.startWR true true 0x2A5 1 2) = 0x5EA50102#32 ∧
    encode (.crcUpdate 0x12 0x34) = 0x60001234#32 ∧
    encode (.crcFinalize 0xC2 4 5) = 0x70C20405#32 ∧
    encode (.crcVerify 0xF4 0 9) = 0x80F40009#32 := by decide

theorem test_decodeTableWord :
    decodeTableWord 32 0x50000000 = some (.startWR false false 0 0 0) ∧
    decodeTableWord 32 0x40500100 = none := by decide

/-! ## The step runs a placed instruction as the first one after reset -/

theorem test_step_placed_nop :
    (next? (step (State.reset.withFetchWord 32 0x00000000))).map (·.cmd) = some 0x00000000#32 := by decide

theorem test_step_placed_start :
    (next? (step (State.reset.withFetchWord 32 0x38500200))).map
      (fun t => (t.cmd, t.busy, t.seq.phase)) = some (0x38500200#32, true, .addr) := by decide

theorem test_step_placed_illegal :
    (next? (step (State.reset.withFetchWord 32 0xF0000000))).map (fun t => (t.cmd, t.code)) =
      some (0xF0000000#32, .illegalCommand) := by decide

/-! ## The CRC (95 2.1) -/

theorem test_crc8Update :
    [crc8Update 0x00 0x01, crc8Update 0x00 0x80, crc8Update 0x00 0xFF, crc8Update 0x07 0x00,
      crc8Update 0xA5 0x5A, crc8Update 0x12 0x34] = [0x07, 0x89, 0xF3, 0x15, 0xF3, 0xF2] := by
  decide +kernel

theorem test_crc8 :
    crc8 0x00 [0xA0, 0x10, 0xAB] = 0x47 ∧ crc8 0x00 [0xA1, 0x12, 0x34] = 0xD2 ∧
    crc8 0x00 [0xA0, 0x10, 0xAA, 0x47] = 0x15 ∧ crc8 0x00 [0x16, 0x09, 0x17, 0x34, 0x12] = 0xB8 := by
  decide +kernel

/-! ## The commands (95 2.2, 2.7) -/

/-- V-FAC-1. -/
theorem test_nop :
    next? (commandWrite 0x00000000#32 { nine with ovr := true, code := .checksumMismatch }) =
      some { nine with ovr := false, code := .checksumMismatch } := by decide

/-- V-FAC-2. -/
theorem test_reset :
    next? (commandWrite 0x10000000#32 { nine with acc := 0x47, result := 0xF4, xferCount := 2 }) =
      some { nine with
        cmd := 0x10000000, busLog := [{ request := .busReset, response := none, data := none }] } := by
  decide

/-- V-FAC-3. -/
theorem test_queryCaps :
    (next? (commandWrite 0x20000000#32 State.reset)).map
      (fun t => (t.code, t.readReg 0x018, t.readReg 0x01C, t.readReg 0x020, t.readReg 0x024)) =
      some (.success, 0x21, 0x21, 0x42, 0x100) := by decide

/-- V-CMD-1 and V-CMD-18. -/
theorem test_crcUpdate :
    codeResult nine 0x60001234 = some (.success, 0xF2) ∧
    codeResult noEngine 0x60001234 = some (.notImplemented, 0x00) := by decide +kernel

/-- V-CMD-3, -5, -6 and -8. -/
theorem test_crcFinalize :
    codeResult nine 0x70000009 = some (.success, 0xF4) ∧
    codeResult nine 0x70C20405 = some (.success, 0xF4) ∧
    codeResult nine 0x705A0000 = some (.success, 0x5A) ∧
    codeResult nine 0x7000FF02 = some (.unsupportedLength, 0x00) := by decide +kernel

/-- V-CMD-7, -16, -17 and -20. -/
theorem test_crcFinalize_edges :
    codeResult { nine with buf := [(255, 0x01)] } 0x7000FF01 = some (.success, 0x07) ∧
    codeResult noEngine 0x70000009 = some (.notImplemented, 0x00) ∧
    codeResult noEngine 0x7000FF02 = some (.unsupportedLength, 0x00) ∧
    fault? (commandWrite 0x70000009 { nine with buf := [(0, 0x31), (1, 0x32), (2, 0x33), (4, 0x35)] }) =
      some (.unwrittenRead 3) := by decide +kernel

/-- V-CMD-10, -11, -14 and -15. -/
theorem test_crcVerify :
    codeResult nine 0x80F40009 = some (.success, 0xF4) ∧
    codeResult nine 0x80000009 = some (.checksumMismatch, 0xF4) ∧
    codeResult nine 0x80000000 = some (.success, 0x00) ∧
    codeResult nine 0x80010000 = some (.checksumMismatch, 0x00) := by decide +kernel

/-- V-CMD-12 and V-CMD-13. -/
theorem test_crcVerify_corrupted :
    codeResult (idleWith [0xA0, 0x10, 0xAB, 0x47]) 0x80000004 = some (.success, 0x00) ∧
    codeResult (idleWith [0xA0, 0x10, 0xAA, 0x47]) 0x80000004 = some (.checksumMismatch, 0x15) := by
  decide +kernel

/-- V-DEC-17, V-DEC-19 and V-CMD-9: only CMD and CODE change. -/
theorem test_reserved9 :
    next? (commandWrite 0x90000000 nine) =
      some { nine with cmd := 0x90000000, code := .illegalCommand } := by decide
theorem test_reservedAB :
    next? (commandWrite 0xB0000001 nine) =
      some { nine with cmd := 0xB0000001, code := .illegalCommand } := by decide
theorem test_reservedCF :
    next? (commandWrite 0xFFFFFFFF nine) =
      some { nine with cmd := 0xFFFFFFFF, code := .illegalCommand } := by decide
theorem test_illegal_first : codeResult nine 0x7100FF02 = some (.illegalCommand, 0x00) := by decide

/-- The acceptance of V-REQ-1. -/
theorem test_startW :
    next? (exec (.startW true false 0x50 2) { idleWith [0x10, 0xAB] with acc := 0x47 }) =
      some writing := by decide

/-- V-FAC-7 and V-FAC-9: acc stays. -/
theorem test_startW_noEngine :
    (next? (commandWrite 0x38500200 { noEngine with acc := 0x47 })).map
      (fun t => (t.code, t.acc, t.busy)) = some (.notImplemented, 0x47, false) ∧
    codeResult noEngine 0x38504300 = some (.unsupportedLength, 0x00) := by decide

/-- The acceptance of V-REQ-2. -/
theorem test_startR :
    next? (exec (.startR true false 0x50 2) { State.reset with xferCount := 7 }) = some reading := by
  decide

/-- V-FAC-4. -/
theorem test_startR_tooLong :
    (next? (commandWrite 0x40500043 { nine with acc := 0x47, xferCount := 2 })).map
      (fun t => (t.code, t.acc, t.xferCount, t.busLog)) =
      some (.unsupportedLength, 0x47, 0, []) := by decide

/-- V-SEG-8 at acceptance, and V-FAC-5. -/
theorem test_startWR :
    (next? (commandWrite 0x5EA50102 nine)).map (fun t => (t.busy, t.seq.chunks)) =
      some (true,
        [{ dir := .W, start := 0, len := 1, final := false },
         { dir := .R, start := 1, len := 2, final := true }]) ∧
    codeResult nine 0x50502221 = some (.unsupportedLength, 0x00) := by decide

/-- V-DEC-14 and V-FAC-6: acc is cleared, BUSY stays 0. -/
theorem test_startWR_empty :
    (next? (commandWrite 0x50000000 { nine with acc := 0x47 })).map
      (fun t => (t.code, t.acc, t.busy, t.busLog)) = some (.success, 0x00, false, []) := by decide

/-! ## Addresses and chunk plans (95 2.3, 2.5) -/

theorem test_addrBytes :
    addrBytes 0x50 false 0 = [0xA0] ∧ addrBytes 0x50 false 1 = [0xA1] ∧
    addrBytes 0x2A5 true 0 = [0xF4, 0xA5] ∧ addrBytes 0x3FF true 1 = [0xF7, 0xFF] ∧
    addrBytes 0x000 true 0 = [0xF0, 0x00] := by decide

/-- V-SEG-9. -/
theorem test_chunkPlan :
    chunkPlan Config.defaultParams 34 32 =
      [{ dir := .W, start := 0, len := 33, final := false },
       { dir := .W, start := 33, len := 1, final := false },
       { dir := .R, start := 34, len := 32, final := true }] := by decide +kernel

/-- V-SEG-13. -/
theorem test_chunkPlan_small :
    chunkPlan { maxTx := 4, maxRx := 3, maxTotal := 10, bufCap := 256, hasPec := true } 5 4 =
      [{ dir := .W, start := 0, len := 4, final := false },
       { dir := .W, start := 4, len := 1, final := false },
       { dir := .R, start := 5, len := 3, final := false },
       { dir := .R, start := 8, len := 1, final := true }] := by decide +kernel

/-! ## Micro-steps (95 2.6), one each -/

/-- The address phase of V-REQ-1: acc 0x00 to 0x69. -/
theorem test_addr :
    (next? (microStep (ok 0) writing)).map (fun t => (t.requests, t.acc, t.seq.phase)) =
      some ([.startCycle [0xA0]], 0x69, .data) := by decide +kernel

/-- The first data byte of V-REQ-1: acc 0x69 to 0x68. -/
theorem test_dataWrite :
    (next? (microStep (ok 0) { at' writing .data 0 none with acc := 0x69 })).map
      (fun t => (t.requests, t.acc, t.seq.phase, t.seq.i)) =
      some ([.writeByte 0x10], 0x68, .data, 1) := by decide +kernel

/-- V-REQ-7: a byte not acknowledged is not folded. -/
theorem test_dataWrite_noAck :
    (next? (microStep noAck { at' writing .data 1 none with acc := 0x68 })).map
      (fun t => (t.acc, t.seq.phase, t.seq.fail)) =
      some (0x68, .abortStop, some .deviceNotPresent) := by decide +kernel

/-- The PEC byte of V-REQ-1. -/
theorem test_pecWrite :
    (next? (microStep (ok 0) { at' writing .pec 2 none with acc := 0x47 })).map
      (fun t => (t.requests, t.acc, t.seq.phase)) = some ([.writeByte 0x47], 0x47, .stop) := by decide

/-- The last data byte of V-REQ-2: `last` is false with PEC on. -/
theorem test_dataRead :
    (next? (microStep (ok 0x34) { at' reading .data 1 none with acc := crc8 0 [0xA1, 0x12] })).map
      (fun t => (t.requests, t.buf, t.acc, t.seq.phase)) =
      some ([.readByte false], [(1, 0x34)], 0xD2, .pec) := by decide +kernel

/-- V-REQ-3: a mismatch goes on to the normal stop. -/
theorem test_pecRead_mismatch :
    (next? (microStep (ok 0x00) { at' reading .pec 2 none with acc := 0xD2 })).map
      (fun t => (t.requests, t.acc, t.seq.phase, t.seq.fail)) =
      some ([.readByte true], 0xD2, .stop, some .checksumMismatch) := by decide

/-- The end of V-REQ-1. -/
theorem test_stop :
    (next? (microStep (ok 0) (at' writing .stop 2 none))).map
      (fun t => (t.code, t.busy, t.xferCount, t.rxCount)) = some (.success, false, 2, 0) := by decide

/-- The end of V-REQ-4: a failed stop does not replace the mismatch, and the chunk counts. -/
theorem test_stop_mismatch :
    (next? (microStep timeout (at' reading .stop 2 (some .checksumMismatch)))).map
      (fun t => (t.code, t.busy, t.xferCount, t.rxCount)) =
      some (.checksumMismatch, false, 2, 2) := by decide

/-- V-REQ-11: a stop NoAck is DeviceNotPresent. -/
theorem test_stop_noAck :
    (next? (microStep noAck (at' writing .stop 2 none))).map
      (fun t => (t.code, t.busy, t.xferCount)) = some (.deviceNotPresent, false, 0) := by decide

/-- The end of V-REQ-5. -/
theorem test_abortStop :
    (next? (microStep noAck (at' reading .abortStop 2 (some .busTimeout)))).map
      (fun t => (t.code, t.busy, t.xferCount, t.rxCount, t.requests)) =
      some (.busTimeout, false, 0, 0, [.stopCycle]) := by decide

/-! ## The host port (95 2.7) -/

/-- V-FAC-11 and V-FAC-12. -/
theorem test_host_busy :
    next? (hostStmt (w32 0x000 0x10000000) writing) = some { writing with ovr := true } ∧
    next? (hostStmt (w8 0x100 0xEE) writing) = some { writing with ovr := true } := by decide

/-- V-FAC-13 and V-FAC-14. -/
theorem test_host_port :
    next? (hostStmt (w32 0x004 0xFFFFFFFF) nine) = some nine ∧
    fault? (hostStmt (w32 0x002 0) nine) = some (.hostAccessError 0x002 32) ∧
    fault? (hostStmt (w8 0x004 0) nine) = some (.hostAccessError 0x004 8) := by decide

/-- V-FAC-15. -/
theorem test_host_reads :
    [0x004, 0x000, 0x008, 0x00C, 0x010, 0x014, 0x028].map State.reset.readReg =
      [0x00010000, 0, 0, 0, 0, 0, 0] ∧
    { noEngine with code := .success }.readReg 0x004 = 0 := by decide

/-- BUSY and OVR in STATUS (10_state.md R22). -/
theorem test_status :
    { writing with ovr := true, code := .illegalCommand }.readReg 0x004 = 0x00010306 := by decide

theorem test_host_buf :
    (next? (hostStmt (w8 0x1FF 0x77) nine)).map (fun t => t.buf.read 255) = some (some 0x77) ∧
    (next? (hostStmt (r8 0x108 3) nine)).map (fun t => t.temp 3) = some 0x39 := by decide

/-- WAIT's test of STATUS.BUSY (30_encoding.md R93). -/
theorem test_host_if :
    (next? (hostStmt (.ifEq 0 8 8 1 5) (writing.setTemp 0 0x00010100))).map (·.host.pc) = some 5 := by
  decide

/-- Power-on reset in the middle of a request (70_reset_and_hazards.md R252). -/
theorem test_powerOn :
    next? (step { writing with powerOn := true }) = some State.reset := by decide

/-! ## Witnesses: the hypotheses of each obligation, met

Each name says the obligation. A statement with several clauses has one conjunct for each clause, at a boundary
value of its range. -/

/-- A request in progress meets the invariant at a phase that fits, by checks that compute. -/
theorem inv_of_checks {s : State} {c : Chunk} {p : Phase} {i : Nat} {f : Option ChunkFail}
    (h : s.caps.legal = true ∧ s.buf.wf = true ∧ (∀ x ∈ s.buf, x.1 < s.caps.bufCap) ∧
      cellsRising s.host.temps = true ∧ s.busy = true ∧
      s.rxCount.toNat ≤ s.xferCount.toNat ∧ s.xferCount.toNat ≤ s.caps.maxTotal ∧
      s.caps.hasPec = true)
    (r : s.seq.chunks = chunkPlan s.caps s.seq.req.wlen.toNat s.seq.req.rlen.toNat ∧
      totalLen s.seq.req.wlen s.seq.req.rlen ≤ s.caps.maxTotal ∧
      addrFits s.seq.req.a10 s.seq.req.addr = true ∧
      (s.seq.req.op = .W → s.seq.req.rlen = 0#8) ∧ (s.seq.req.op = .R → s.seq.req.wlen = 0#8) ∧
      s.currentChunk = some c ∧ s.seq.tx = dirBytes .W (s.seq.chunks.take s.seq.k) ∧
      s.seq.rx = dirBytes .R (s.seq.chunks.take s.seq.k) ∧
      (s.code = .success ∧ s.xferCount = 0#16 ∧ s.rxCount = 0#16) ∧
      (s.seq.req.pec = false → s.acc = 0x00#8))
    (hp : p ≠ .idle) (fits : phaseFits (at' s p i f) c) : StateInv (at' s p i f) := by
  obtain ⟨h1, h2, h3, h4, h5, h7, h8, h9⟩ := h
  obtain ⟨r1, r2, r3, r4, r5, r6, r7, r8, r9, r10⟩ := r
  exact
    { legal := h1, bufWf := h2, bufBelow := h3, tempsWf := h4
      busyPhase := ⟨fun _ => hp, fun _ => h5⟩
      request := fun _ =>
        { plan := r1, fits := r2, addr := r3, kind := ⟨r4, r5⟩, engine := fun _ => h9
          current := ⟨c, r6, fits⟩, sent := r7, received := r8, quiet := r9, plain := r10 }
      counts := ⟨h7, h8⟩
      noEngine := fun h => by cases h9.symm.trans h }

/-- The chunks of `writing` and `reading`. -/
def chunkW : Chunk := { dir := .W, start := 0, len := 2, final := true }
def chunkR : Chunk := { dir := .R, start := 0, len := 2, final := true }

/-- The two-chunk write V-REQ-6 and a two-chunk read, at the stop of the first chunk. -/
def writingTwo : State :=
  { writing with
    seq :=
      { phase := .stop
        req := { op := .W, pec := false, a10 := false, addr := 0x2C, wlen := 34, rlen := 0 }
        chunks := chunkPlan Config.defaultParams 34 0
        k := 0, i := 33, fail := none, tx := 0, rx := 0 } }

theorem inv_writing (p : Phase) (i : Nat) (f : Option ChunkFail) (hp : p ≠ .idle)
    (fits : phaseFits (at' writing p i f) chunkW) : StateInv (at' writing p i f) :=
  inv_of_checks ⟨by decide, by decide, by decide, by decide, rfl, by decide, by decide, rfl⟩
    ⟨by decide, by decide, by decide, by decide, by decide, rfl, by decide, by decide, by decide, nofun⟩
    hp fits

theorem inv_reading (p : Phase) (i : Nat) (f : Option ChunkFail) (hp : p ≠ .idle)
    (fits : phaseFits (at' reading p i f) chunkR) : StateInv (at' reading p i f) :=
  inv_of_checks ⟨by decide, by decide, by decide, by decide, rfl, by decide, by decide, rfl⟩
    ⟨by decide, by decide, by decide, by decide, by decide, rfl, by decide, by decide, by decide, nofun⟩
    hp fits

/-- `nine` meets the invariant. -/
theorem inv_nine : StateInv nine :=
  { legal := by decide, bufWf := by decide, bufBelow := by unfold Memory.below; decide
    tempsWf := by decide, busyPhase := by decide, request := nofun, counts := by decide
    noEngine := nofun }

theorem witness_DecodeInvertsEncode :
    (Instr.startW true false 0x07F 0xFF).wf = true ∧ (Instr.startWR false true 0x3FF 0xFF 0xFF).wf = true ∧
      (Instr.reservedCF 0x3FFFFFFF).wf = true := by decide

theorem witness_EncodeInvertsDecode :
    decode 0x387FFF00#32 = .ok (.startW true false 0x07F 0xFF) := by rfl

theorem witness_DecoderAcceptsExactlyWellFormedWords :
    (opField 0x80800000#32).toNat ≤ 8 ∧ (opField 0x81000000#32).toNat ≤ 8 ∧
      wordWellFormed 0x81000000#32 = false := by decide

theorem witness_OpcodeRowsAreDisjoint :
    Instr.row (.startW true false 0x50 2) ∈ opcodeTable ∧
      (Instr.row (.startW true false 0x50 2)).covers 0x38500200#32 = true ∧
      decode 0x38500200#32 = .ok (.startW true false 0x50 2) := ⟨by decide, by decide, rfl⟩

theorem witness_NopChangesNothing :
    nine.busy = false ∧ opField 0x00000001#32 = 0x0#4 ∧ (0x00000001#32).extractLsb' 0 28 ≠ 0#28 ∧
      opField 0x08000000#32 = 0x0#4 ∧ (0x08000000#32).extractLsb' 0 28 ≠ 0#28 := by decide

theorem witness_ResetClearsResultsAndResetsBus :
    nine.busy = false ∧ opField 0x10000001#32 = 0x1#4 ∧ (0x10000001#32).extractLsb' 0 28 ≠ 0#28 ∧
      writing.busy = true := by decide

theorem witness_QueryCapsSucceeds :
    nine.busy = false ∧ opField 0x28000000#32 = 0x2#4 ∧ (0x28000000#32).extractLsb' 0 28 ≠ 0#28 ∧
      nine.caps.legal = true := by decide

/-- 67 bytes; 66 bytes with PEC and no engine; no byte; 66 bytes and 1 byte. -/
theorem witness_StartAcceptance :
    ((startOf (.startW false false 0x7F 67)).map (fun q => (q.a10, q.addr.toNat, q.wlen.toNat + q.rlen.toNat)) =
      some (false, 127, 67) ∧ nine.caps.maxTotal < 67) ∧
    ((startOf (.startR true false 0x50 66)).map (fun q => (q.pec, q.wlen.toNat + q.rlen.toNat)) =
      some (true, 66) ∧ 66 ≤ noEngine.caps.maxTotal ∧ noEngine.caps.hasPec = false) ∧
    ((startOf (.startWR true true 0x3FF 0 0)).map (fun q => q.wlen.toNat + q.rlen.toNat) = some 0 ∧
      nine.caps.hasPec = true) ∧
    ((startOf (.startWR true true 0x3FF 33 33)).map (fun q => q.wlen.toNat + q.rlen.toNat) = some 66 ∧
      (startOf (.startR false false 0x00 1)).map (fun q => q.wlen.toNat + q.rlen.toNat) = some 1 ∧
      66 ≤ nine.caps.maxTotal) := by decide

theorem witness_CrcUpdateFoldsOneByte :
    nine.caps.hasPec = true ∧ noEngine.caps.hasPec = false ∧ nine.busy = false ∧
      opField 0x60010000#32 = 0x6#4 ∧ (0x60010000#32).extractLsb' 16 12 ≠ 0#12 := by decide

/-- A run of 256 + 1; a run to 256 without the engine; the run of nine bytes; its tenth byte is unwritten. -/
theorem witness_CrcFinalizeFoldsRun :
    nine.caps.bufCap < (255#8).toNat + (2#8).toNat ∧
    ((255#8).toNat + (1#8).toNat ≤ noEngine.caps.bufCap ∧ noEngine.caps.hasPec = false) ∧
    nine.buf.holds (0#8).toNat [0x31, 0x32, 0x33, 0x34, 0x35, 0x36, 0x37, 0x38, 0x39] ∧
    ((0#8).toNat + (10#8).toNat ≤ nine.caps.bufCap ∧ nine.caps.hasPec = true ∧
      (∀ i < 9, nine.buf.read ((0#8).toNat + i) ≠ none) ∧ nine.buf.read ((0#8).toNat + 9) = none) ∧
    (nine.busy = false ∧ opField 0x71000000#32 = 0x7#4 ∧ (0x71000000#32).extractLsb' 24 4 ≠ 0#4) := by
  refine ⟨by decide, by decide, ?_, by decide, by decide⟩
  intro j b h
  obtain ⟨hj, rfl⟩ := List.getElem?_eq_some_iff.mp h
  simp only [List.length_cons, List.length_nil] at hj
  interval_cases j <;> rfl

/-- As for CRC_FINALIZE, with the checksum right and wrong. -/
theorem witness_CrcVerifyComparesRun :
    nine.caps.bufCap < (255#8).toNat + (2#8).toNat ∧
    ((255#8).toNat + (1#8).toNat ≤ noEngine.caps.bufCap ∧ noEngine.caps.hasPec = false) ∧
    (crc8 0x00#8 [0x31, 0x32, 0x33, 0x34, 0x35, 0x36, 0x37, 0x38, 0x39] = 0xF4#8 ∧
      crc8 0x00#8 [0x31, 0x32, 0x33, 0x34, 0x35, 0x36, 0x37, 0x38, 0x39] ≠ 0x00#8) ∧
    nine.buf.read ((9#8).toNat + 0) = none ∧
    (opField 0x88000000#32 = 0x8#4 ∧ (0x88000000#32).extractLsb' 24 4 ≠ 0#4) := by decide +kernel

theorem witness_ReservedOpcodesAreIllegal :
    (startOf (.startW false false 0x080 1)).map (fun q => (q.a10, q.addr.toNat)) = some (false, 128) := by
  decide

theorem witness_IllegalWordsChangeOnlyCode :
    nine.busy = false ∧ wordWellFormed 0x90000000#32 = false ∧ wordWellFormed 0x30800100#32 = false := by
  decide

theorem witness_StepRunsDecodedCommand :
    let s := hostAt nine (w32 0x000#9 0x60001234#32)
    s.powerOn = false ∧ s.busy = false ∧ s.host.prog[s.host.pc]? = some (w32 0x000#9 0x60001234#32) ∧
      decode 0x60001234#32 = .ok (.crcUpdate 0x12 0x34) ∧
      decode 0x00000001#32 = .error .reservedBitsNonzero := ⟨rfl, rfl, rfl, rfl, rfl⟩

theorem witness_CommandWhileBusyIsLost :
    let s := { hostAt writing (w32 0x000#9 0x10000000#32) with schedule := [.host, .sequencer] }
    s.busy = true ∧ s.powerOn = false ∧ s.seq.phase ≠ .idle ∧ s.schedule = .host :: [.sequencer] ∧
      s.host.prog[s.host.pc]? = some (w32 0x000#9 0x10000000#32) :=
  ⟨rfl, rfl, nofun, rfl, rfl⟩

/-- A START, RESET, and a command that is neither. -/
theorem witness_CommandFrame :
    (∃ t, exec (.startW true false 0x50 2) nine = .next t) ∧ (∃ t, exec .reset nine = .next t) ∧
      ∃ t, exec .queryCaps nine = .next t := ⟨⟨_, rfl⟩, ⟨_, rfl⟩, ⟨_, rfl⟩⟩

theorem witness_CommandsStopOnlyOnUnwrittenBytes :
    exec (.crcFinalize 0x00 0 10) nine = .fault (.unwrittenRead 9) := by rfl

theorem witness_CrcDetectsOneCorruptedByte : (0xAB#8) ≠ 0xAA#8 := by decide

/-- The defaults, and the smallest legal parameters, with requests of MAX_TOTAL bytes. -/
theorem witness_ChunkPlanInvariants :
    Config.defaultParams.legal = true ∧ 66 + 0 ≤ Config.defaultParams.maxTotal ∧
    Params.legal { maxTx := 1, maxRx := 1, maxTotal := 0, bufCap := 1, hasPec := false } = true ∧
    Params.legal { maxTx := 255, maxRx := 255, maxTotal := 256, bufCap := 256, hasPec := true } = true := by
  decide

theorem witness_ChunkPlanEdgeCases : Config.defaultParams.legal = true := by decide

theorem witness_AddressPhase :
    writing.currentChunk = some chunkW ∧ writing.seq.phase = .addr ∧
      (ok 0).resp = .ok ∧ noAck.resp = .noAck ∧ timeout.resp = .timeout := by decide

/-- The last byte, written; and a chunk over BUF whose byte is not written. -/
theorem witness_WriteDataPhase :
    ((at' writing .data 1 none).currentChunk = some chunkW ∧ (at' writing .data 1 none).seq.phase = .data ∧
      chunkW.dir = .W ∧ chunkW.start + 1 < writing.caps.bufCap ∧
      writing.buf.read (chunkW.start + 1) = some 0xAB) ∧
    { at' writing .data 1 none with buf := [(0, 0x10)] }.buf.read (chunkW.start + 1) = none := by decide

theorem witness_ReadDataPhase :
    (at' reading .data 1 none).currentChunk = some chunkR ∧ (at' reading .data 1 none).seq.phase = .data ∧
      chunkR.dir = .R ∧ chunkR.start + 1 < reading.caps.bufCap := by decide

theorem witness_WritePecPhase :
    (at' writing .pec 2 none).currentChunk = some chunkW ∧ (at' writing .pec 2 none).seq.phase = .pec ∧
      chunkW.dir = .W := by decide

theorem witness_ReadPecPhase :
    (at' reading .pec 2 none).currentChunk = some chunkR ∧ (at' reading .pec 2 none).seq.phase = .pec ∧
      chunkR.dir = .R := by decide

/-- Not the last chunk; the last chunk; a mismatch; an earlier failure. -/
theorem witness_StopPhase :
    (writingTwo.currentChunk.map Chunk.final = some false ∧ writingTwo.seq.phase = .stop ∧
      writingTwo.seq.fail = none) ∧
    ((at' writing .stop 2 none).currentChunk = some chunkW ∧ chunkW.final = true) ∧
    (at' reading .stop 2 (some .checksumMismatch)).seq.fail = some .checksumMismatch ∧
    (at' reading .stop 2 (some .busTimeout)).seq.fail = some .busTimeout := by decide

theorem witness_AbortStopPhase :
    (at' reading .abortStop 1 (some .busTimeout)).currentChunk = some chunkR ∧
      (at' reading .abortStop 1 (some .busTimeout)).seq.phase = .abortStop ∧
      (at' reading .abortStop 1 (some .busTimeout)).seq.fail = some .busTimeout ∧
      (at' writing .abortStop 1 (some .deviceNotPresent)).seq.fail = some .deviceNotPresent := by decide

/-- A micro-step that stores, and one that does not. -/
theorem witness_MicroStepFrame :
    (∃ t, microStep (ok 0x34) (at' reading .data 1 none) = .next t) ∧
    (∃ t, microStep (ok 0) writing = .next t) ∧ (at' reading .data 1 none).currentChunk = some chunkR ∧
      writing.seq.phase = .addr := ⟨⟨_, rfl⟩, ⟨_, rfl⟩, rfl, rfl⟩

theorem witness_MicroStepIssuesOneRequest :
    (writing.seq.phase ≠ .idle ∧ ∃ t, microStep (ok 0) writing = .next t) ∧
    let s := { writing with answers := [ok 0] }
    s.powerOn = false ∧ s.host.prog.length ≤ s.host.pc ∧ s.busy = true ∧ s.answers = ok 0 :: [] :=
  ⟨⟨nofun, _, rfl⟩, rfl, by decide, rfl, rfl⟩

theorem witness_WhoMovesNext :
    { writing with powerOn := true }.powerOn = true ∧
    (nine.powerOn = false ∧ nine.host.prog.length ≤ nine.host.pc ∧ nine.busy = false) ∧
    ((hostAt nine .halt).host.prog[0]? = some .halt ∧ (hostAt nine .halt).busy = false) ∧
    (writing.busy = true ∧ writing.seq.phase ≠ .idle ∧ writing.host.prog.length ≤ writing.host.pc) ∧
    ((hostAt writing .halt).host.prog[0]? = some .halt ∧
      { hostAt writing .halt with schedule := [.host] }.schedule = .host :: [] ∧
      { hostAt writing .halt with schedule := [.sequencer] }.schedule = .sequencer :: []) := by decide

theorem witness_ResetMeetsInvariant : Config.defaultParams.legal = true := by decide

/-- A step of the host, and one of the sequencer. -/
theorem witness_StepKeepsInvariant :
    (StateInv nine ∧ ∃ t, step nine = .next t) ∧
    StateInv writing ∧ ∃ t, step { writing with answers := [ok 0] } = .next t :=
  ⟨⟨inv_nine, _, rfl⟩, inv_writing .addr 0 none nofun ⟨rfl, rfl⟩, _, rfl⟩

/-- A host access, and a CRC command over a byte that nothing has written. -/
theorem witness_StepStopsOnlyAsSpecified :
    StateInv nine ∧
    step (hostAt nine (w32 0x002 0)) = .fault (.hostAccessError 0x002 32) ∧
    step (hostAt nine (w32 0x000 0x7000090A)) = .fault (.unwrittenRead 9) := ⟨inv_nine, rfl, rfl⟩

theorem witness_CapabilitiesNeverChange : ∃ t, step nine = .next t := ⟨_, rfl⟩

theorem witness_PowerOnResetValues :
    { writing with powerOn := true }.powerOn = true ∧ writing.caps.legal = true := by decide

/-- An acceptance that begins a request, and a micro-step of it. -/
theorem witness_MicroStepsAreBounded :
    (∃ t, exec (.startW true false 0x50 2) nine = .next t ∧ t.busy = true) ∧
    StateInv writing ∧ ∃ t, microStep (ok 0) writing = .next t :=
  ⟨⟨_, rfl, rfl⟩, inv_writing .addr 0 none nofun ⟨rfl, rfl⟩, _, rfl⟩

theorem witness_EveryRequestCompletes :
    StateInv writing ∧ writing.busy = true ∧ (∀ i < 2, writing.buf.read i ≠ none) ∧
      writing.remaining ≤ (List.replicate 5 noAck).length :=
  ⟨inv_writing .addr 0 none nofun ⟨rfl, rfl⟩, rfl, by decide, by decide⟩

theorem witness_WriteChunkCycle :
    writing.currentChunk = some chunkW ∧ chunkW.len = [0x10#8, 0xAB#8].length ∧
      chunkW.start + chunkW.len ≤ writing.caps.bufCap ∧ writing.buf.holds chunkW.start [0x10, 0xAB] ∧
      (List.replicate 5 (ok 0)).length = chunkCost writing.seq.req.pec chunkW ∧
      writing.seq.fail = none ∧ writing.seq.phase = .addr := by
  refine ⟨rfl, rfl, by decide, ?_, rfl, rfl, rfl⟩
  intro j b h
  obtain ⟨hj, rfl⟩ := List.getElem?_eq_some_iff.mp h
  simp only [List.length_cons, List.length_nil] at hj
  interval_cases j <;> rfl

theorem witness_ReadChunkCycle :
    reading.currentChunk = some chunkR ∧ chunkR.dir = .R ∧ reading.seq.phase = .addr ∧
      reading.seq.fail = none ∧ chunkR.len = [0x12#8, 0x34#8].length ∧
      chunkR.start + chunkR.len ≤ reading.caps.bufCap := by decide

/-- Success; a failed write chunk; a failed read chunk; a mismatching read chunk. -/
theorem witness_CountsAtCompletion :
    (StateInv (at' writing .stop 2 none) ∧
      ∃ t, microStep (ok 0) (at' writing .stop 2 none) = .next t ∧ t.busy = false ∧ t.code = .success) ∧
    (∃ t, microStep noAck (at' writing .stop 2 none) = .next t ∧ t.busy = false ∧
      t.code = .deviceNotPresent) ∧
    (StateInv (at' reading .abortStop 1 (some .busTimeout)) ∧
      ∃ t, microStep (ok 0) (at' reading .abortStop 1 (some .busTimeout)) = .next t ∧ t.busy = false ∧
        t.code = .busTimeout) ∧
    (StateInv (at' reading .stop 2 (some .checksumMismatch)) ∧
      ∃ t, microStep (ok 0) (at' reading .stop 2 (some .checksumMismatch)) = .next t ∧ t.busy = false ∧
        t.code = .checksumMismatch) :=
  ⟨⟨inv_writing _ _ _ nofun ⟨rfl, .inl rfl⟩, _, rfl, rfl, rfl⟩, ⟨_, rfl, rfl, rfl⟩,
    ⟨inv_reading _ _ _ nofun (.inr rfl), _, rfl, rfl, rfl⟩,
    ⟨inv_reading _ _ _ nofun ⟨rfl, .inr ⟨rfl, rfl, rfl⟩⟩, _, rfl, rfl, rfl⟩⟩

theorem witness_UnacknowledgedWrite :
    nine.busy = false ∧ (∃ u, exec (.startW true false 0x50 2) nine = .next u ∧ u.busy = true) ∧
      noAck.resp = .noAck := ⟨rfl, ⟨_, rfl, rfl⟩, rfl⟩

/-- Two states that differ in what may not matter: CMD, OVR, RESULT, a byte past the write part, the host. -/
theorem witness_RequestDependsOnlyOnItsInputs :
    (∃ t, exec (.startW true false 0x50 2) nine = .next t ∧ t.code ≠ .illegalCommand) ∧
    (nine.busy = false ∧ (hostAt nine .halt).busy = false ∧
      ∀ j < 2, nine.buf.read j = (hostAt nine .halt).buf.read j) ∧
    StateInv writing ∧
    RequestAgrees writing
      { hostAt writing .halt with
        cmd := 1, ovr := true, result := 7, buf := [(0, 0x10), (1, 0xAB), (2, 0x99)] } ∧
    ∃ t, microStep (ok 0) writing = .next t := by
  refine ⟨⟨_, rfl, nofun⟩, by decide, inv_writing .addr 0 none nofun ⟨rfl, rfl⟩, ?_, _, rfl⟩
  exact
    { caps := rfl, seq := rfl, acc := rfl, code := rfl, busy := rfl, xfer := rfl, rx := rfl
      writePart := by decide }

theorem witness_RegisterReads :
    ((0x0FC#9).toNat < 0x100 ∧ (0x0FC#9).toNat % 4 = 0) ∧ 0x028 ≤ (0x028#9).toNat ∧
      (0x028#9).toNat ≤ 0x0FC ∧ (0x028#9).toNat % 4 = 0 := by decide

theorem witness_ReadOnlyRegistersIgnoreWrites :
    (0x004 ≤ (0x004#9).toNat ∧ (0x004#9).toNat ≤ 0x0FC ∧ (0x004#9).toNat % 4 = 0) ∧
      (0x0FC#9).toNat ≤ 0x0FC ∧ (0x0FC#9).toNat % 4 = 0 := by decide

/-- BUF[0] and BUF[255], idle and busy; and a BUF_CAP of 16, past which the offsets are reserved. -/
theorem witness_BufferWrites :
    ((0x100#9).toNat = 0x100 + 0 ∧ 0 < nine.caps.bufCap ∧ nine.busy = false ∧ writing.busy = true) ∧
    ((0x1FF#9).toNat = 0x100 + 255 ∧ 255 < nine.caps.bufCap) ∧
    ((0x110#9).toNat = 0x100 + 16 ∧
      { nine with caps := { nine.caps with maxTotal := 16, bufCap := 16 } }.caps.bufCap ≤ 16) := by decide

theorem witness_BufferReads :
    ((0x108#9).toNat = 0x100 + 8 ∧ nine.buf.read 8 = some 0x39 ∧ nine.busy = false) ∧
    ((0x109#9).toNat = 0x100 + 9 ∧ nine.buf.read 9 = none ∧ writing.busy = true) ∧
    ((0x110#9).toNat = 0x100 + 16 ∧
      { nine with caps := { nine.caps with maxTotal := 16, bufCap := 16 } }.caps.bufCap ≤ 16) := by decide

/-- A misaligned register access, an 8-bit access below BUF, a 32-bit access of BUF, a 16-bit access. -/
theorem witness_UnsupportedAccessesFault :
    (¬(32 = 32 ∧ (0x0FD#9).toNat < 0x100 ∧ (0x0FD#9).toNat % 4 = 0) ∧ ¬(32 = 8 ∧ 0x100 ≤ (0x0FD#9).toNat)) ∧
    (¬(8 = 32 ∧ (0x0FF#9).toNat < 0x100 ∧ (0x0FF#9).toNat % 4 = 0) ∧ ¬(8 = 8 ∧ 0x100 ≤ (0x0FF#9).toNat)) ∧
    (¬(32 = 32 ∧ (0x100#9).toNat < 0x100 ∧ (0x100#9).toNat % 4 = 0) ∧ ¬(32 = 8 ∧ 0x100 ≤ (0x100#9).toNat)) ∧
    (¬(16 = 32 ∧ (0x004#9).toNat < 0x100 ∧ (0x004#9).toNat % 4 = 0) ∧ ¬(16 = 8 ∧ 0x100 ≤ (0x004#9).toNat)) := by
  decide

theorem witness_HostCannotDisturbRequest :
    (hostAt writing (w8 0x100 0xEE)).busy = true ∧
      ∃ t, hostStep (hostAt writing (w8 0x100 0xEE)) = .next t ∧ t.ovr = true := ⟨rfl, _, rfl, rfl⟩

theorem witness_HostReadsHaveNoSideEffect :
    (∃ t, hostStmt (.read 32 0x004 0) nine = .next t) ∧ ∃ t, hostStmt (.read 8 0x109 0) nine = .next t :=
  ⟨⟨_, rfl⟩, _, rfl⟩

/-- A temporary whose field [8:8] is 1, and one where it is 0. -/
theorem witness_HostControlFlow :
    ((nine.setTemp 0 0x00010100).temp 0).toNat / 2 ^ 8 % 2 ^ (8 + 1 - 8) = 1 ∧
      ((nine.setTemp 0 0x00010000).temp 0).toNat / 2 ^ 8 % 2 ^ (8 + 1 - 8) ≠ 1 := by decide

end Sys2Proof.Tests
end

section
/-! PROOFS. The choice of the agent that moves (spec/00_scope.md R16; spec/20_memory.md R67;
spec/70_reset_and_hazards.md R252, R267): when each agent can move, and the step of the machine once for every case of
that choice. -/

namespace Sys2Proof.Machine

variable {s : State} {st : HostStmt}

/-! ## When an agent can move -/

theorem hostEnabled_eq_false_iff : s.hostEnabled = false ↔ s.host.prog.length ≤ s.host.pc := by
  simp [State.hostEnabled]

theorem hostEnabled_of_statement (hst : s.host.prog[s.host.pc]? = some st) :
    s.hostEnabled = true := by
  obtain ⟨hlt, -⟩ := List.getElem?_eq_some_iff.mp hst
  simpa [State.hostEnabled] using hlt

theorem sequencerEnabled_eq_true_iff :
    s.sequencerEnabled = true ↔ s.busy = true ∧ s.seq.phase ≠ .idle := by
  simp [State.sequencerEnabled]

theorem sequencerEnabled_of_not_busy (hb : s.busy = false) : s.sequencerEnabled = false := by
  simp [State.sequencerEnabled, hb]

theorem hostStep_of_statement (hst : s.host.prog[s.host.pc]? = some st) :
    hostStep s = hostStmt st (s.setHostPc (s.host.pc + 1)) := by
  simp [hostStep, hst]

/-! ## The step, by who can move -/

theorem step_of_powerOn (hp : s.powerOn = true) : step s = .next s.powerOnReset := by
  simp [step, machineStep, hp]

theorem step_of_none_enabled (hp : s.powerOn = false) (hh : s.hostEnabled = false)
    (hs : s.sequencerEnabled = false) : step s = .next s := by
  simp [step, machineStep, hp, hh, hs]

theorem step_of_host_enabled (hp : s.powerOn = false) (hh : s.hostEnabled = true)
    (hs : s.sequencerEnabled = false) : step s = hostStep s := by
  simp [step, machineStep, hp, hh, hs, agentStep]

theorem step_of_sequencer_enabled (hp : s.powerOn = false) (hh : s.hostEnabled = false)
    (hs : s.sequencerEnabled = true) : step s = sequencerStep s := by
  simp [step, machineStep, hp, hh, hs, agentStep]

/-- Where both agents can move, the first entry of a schedule names the one that does, and is used up. -/
theorem step_of_both_enabled {a : Agent} {rest : List Agent} (hp : s.powerOn = false)
    (hh : s.hostEnabled = true) (hs : s.sequencerEnabled = true) (hsch : s.schedule = a :: rest) :
    step s = agentStep a { s with schedule := rest } := by
  have hturn : s.turn = a := by simp [State.turn, hsch]
  have hafter : s.afterTurn = { s with schedule := rest } := by simp [State.afterTurn, hsch]
  simp [step, machineStep, hp, hh, hs, hturn, hafter]

/-- Settles O36, by the case of the choice that each clause describes. -/
theorem whoMovesNext : Obligations.WhoMovesNext := by
  intro s
  refine ⟨step_of_powerOn, fun hp => ⟨fun hend hb => ?_, fun st hst hb => ?_, fun hb hph => ?_⟩⟩
  · exact step_of_none_enabled hp (hostEnabled_eq_false_iff.mpr hend)
      (sequencerEnabled_of_not_busy hb)
  · rw [step_of_host_enabled hp (hostEnabled_of_statement hst) (sequencerEnabled_of_not_busy hb)]
    exact hostStep_of_statement hst
  · have hs : s.sequencerEnabled = true := sequencerEnabled_eq_true_iff.mpr ⟨hb, hph⟩
    refine ⟨fun hend => ?_, fun st rest hst => ⟨fun hsch => ?_, fun hsch => ?_⟩⟩
    · exact step_of_sequencer_enabled hp (hostEnabled_eq_false_iff.mpr hend) hs
    · rw [step_of_both_enabled hp (hostEnabled_of_statement hst) hs hsch]
      exact hostStep_of_statement (s := { s with schedule := rest }) hst
    · exact step_of_both_enabled hp (hostEnabled_of_statement hst) hs hsch

end Sys2Proof.Machine
end

section
/-! PROOFS. The chunk plan (spec/41_segmenter.md R140): its chunks, the bytes of its first chunks, and its
last chunk. -/

namespace Sys2Proof.Machine

/-! ## Bytes counted by direction -/

theorem dirBytes_cons (d : Dir) (c : Chunk) (cs : List Chunk) :
    dirBytes d (c :: cs) = dirBytesOf d c + dirBytes d cs := by
  by_cases h : c.dir = d <;> simp [dirBytes, dirBytesOf, h]

theorem dirBytes_append (d : Dir) (cs ds : List Chunk) :
    dirBytes d (cs ++ ds) = dirBytes d cs + dirBytes d ds := by
  simp [dirBytes]

/-- Every chunk is counted in exactly one of the two directions. -/
theorem dirBytes_write_add_read (cs : List Chunk) :
    dirBytes .W cs + dirBytes .R cs = (cs.map Chunk.len).sum := by
  induction cs with
  | nil => rfl
  | cons c cs ih =>
    rw [dirBytes_cons, dirBytes_cons, List.map_cons, List.sum_cons, ← ih]
    cases hd : c.dir <;> simp [dirBytesOf, hd] <;> omega

/-- One chunk more is counted when the position moves past it. -/
theorem dirBytes_take_succ {d : Dir} {cs : List Chunk} {k : Nat} {c : Chunk}
    (hc : cs[k]? = some c) :
    dirBytes d (cs.take (k + 1)) = dirBytes d (cs.take k) + dirBytesOf d c := by
  rw [List.take_add_one, hc, dirBytes_append, Option.toList_some, dirBytes_cons]
  rfl

/-- The first chunks of a list hold at most the bytes of all. -/
theorem sum_len_take_le (cs : List Chunk) (k : Nat) :
    ((cs.take k).map Chunk.len).sum ≤ (cs.map Chunk.len).sum :=
  ((List.take_sublist k cs).map Chunk.len).sum_le_sum (by simp)

/-! ## The plan's chunks -/

variable {p : Params} {wlen rlen j : Nat} {c : Chunk}

/-- The bounds of 00_scope.md R7 that the proofs about requests use. -/
theorem legal_bounds (h : p.legal = true) :
    1 ≤ p.maxTx ∧ 1 ≤ p.maxRx ∧ p.maxTotal ≤ 256 ∧ p.maxTotal ≤ p.bufCap := by
  simp only [Params.legal, decide_eq_true_eq] at h
  omega

/-- The plan moves every byte of the request. -/
theorem chunkPlan_sum (h : p.legal = true) :
    ((chunkPlan p wlen rlen).map Chunk.len).sum = wlen + rlen := by
  obtain ⟨htx, hrx, -⟩ := legal_bounds h
  rw [chunkPlan, markFinal_map Chunk.len (fun _ _ => rfl), List.map_append, List.sum_append,
    splitPart_sum htx _ le_rfl, splitPart_sum hrx _ le_rfl]

/-- A chunk of the plan is a chunk of one of the two parts, with the last one of the plan marked. -/
theorem chunkPlan_getElem?_eq_some (hc : (chunkPlan p wlen rlen)[j]? = some c) :
    ∃ c₀, (splitPart .W p.maxTx wlen 0 wlen ++ splitPart .R p.maxRx rlen wlen rlen)[j]? = some c₀ ∧
      c = if j + 1 = (chunkPlan p wlen rlen).length then { c₀ with final := true } else c₀ := by
  rw [chunkPlan, markFinal_getElem?, Option.map_eq_some_iff] at hc
  obtain ⟨c₀, h₀, rfl⟩ := hc
  exact ⟨c₀, h₀, by simp [chunkPlan]⟩

/-- A chunk of the plan moves at least one byte. -/
theorem one_le_len_of_chunkPlan (h : p.legal = true)
    (hc : (chunkPlan p wlen rlen)[j]? = some c) : 1 ≤ c.len := by
  obtain ⟨htx, hrx, -⟩ := legal_bounds h
  obtain ⟨c₀, h₀, rfl⟩ := chunkPlan_getElem?_eq_some hc
  have hlen : 1 ≤ c₀.len := by
    rcases List.mem_append.mp (List.mem_of_getElem? h₀) with hm | hm
    · exact (splitPart_mem htx hm).2.1
    · exact (splitPart_mem hrx hm).2.1
  split_ifs <;> exact hlen

/-- Only the plan's last chunk is final. -/
theorem lt_length_of_chunkPlan_not_final (hc : (chunkPlan p wlen rlen)[j]? = some c)
    (hf : c.final = false) : j + 1 < (chunkPlan p wlen rlen).length := by
  have hj : j < (chunkPlan p wlen rlen).length := (List.getElem?_eq_some_iff.mp hc).1
  obtain ⟨c₀, -, rfl⟩ := chunkPlan_getElem?_eq_some hc
  have hne : j + 1 ≠ (chunkPlan p wlen rlen).length := fun he => by simp [he] at hf
  omega

/-- A write chunk of the plan lies in the write part. -/
theorem write_chunk_end_le (h : p.legal = true) (hc : (chunkPlan p wlen rlen)[j]? = some c)
    (hd : c.dir = .W) : c.start + c.len ≤ wlen := by
  obtain ⟨htx, hrx, -⟩ := legal_bounds h
  obtain ⟨c₀, h₀, rfl⟩ := chunkPlan_getElem?_eq_some hc
  have hd₀ : c₀.dir = .W := by split_ifs at hd <;> exact hd
  have hw : (splitPart .W p.maxTx wlen 0 wlen)[j]? = some c₀ := by
    rcases Nat.lt_or_ge j (splitPart .W p.maxTx wlen 0 wlen).length with hj | hj
    · rwa [List.getElem?_append_left hj] at h₀
    · rw [List.getElem?_append_right hj] at h₀
      have := (splitPart_mem hrx (List.mem_of_getElem? h₀)).1
      rw [hd₀] at this; cases this
  have hend : c₀.start + c₀.len ≤ wlen := calc
    c₀.start + c₀.len
      = (((splitPart .W p.maxTx wlen 0 wlen).take (j + 1)).map Chunk.len).sum := by
        rw [splitPart_start hw, List.take_add_one, hw]; simp
    _ ≤ ((splitPart .W p.maxTx wlen 0 wlen).map Chunk.len).sum := sum_len_take_le _ _
    _ = wlen := splitPart_sum htx _ le_rfl
  split_ifs <;> exact hend

end Sys2Proof.Machine
end

section
/-! PROOFS. The invariant of the machine (spec/10_state.md R22, R23, R36; spec/70_reset_and_hazards.md R260), rule by
rule: what it is of an idle and of a busy block, how each operation keeps it, and how a step does. -/

namespace Sys2Proof.Machine

variable {s t : State}

/-! ## The invariant of an idle and of a busy block -/

/-- The part of the invariant that says nothing of the request in progress. -/
structure BlockInv (s : State) : Prop where
  legal : s.caps.legal = true
  bufWf : s.buf.wf = true
  bufBelow : s.buf.below s.caps.bufCap
  tempsWf : cellsRising s.host.temps = true
  noEngine : s.caps.hasPec = false → s.acc = 0x00#8 ∧ s.result = 0#8

/-- RX_COUNT ≤ XFER_COUNT ≤ MAX_TOTAL (10_state.md R23). -/
def CountsInOrder (s : State) : Prop :=
  s.rxCount.toNat ≤ s.xferCount.toNat ∧ s.xferCount.toNat ≤ s.caps.maxTotal

theorem StateInv.block (h : StateInv s) : BlockInv s :=
  ⟨h.legal, h.bufWf, h.bufBelow, h.tempsWf, h.noEngine⟩

/-- The rest of the invariant, of an idle block: its phase and its counts. -/
theorem BlockInv.stateInv_of_idle (h : BlockInv s) (hb : s.busy = false) (hp : s.seq.phase = .idle)
    (hc : CountsInOrder s) : StateInv s where
  legal := h.legal
  bufWf := h.bufWf
  bufBelow := h.bufBelow
  tempsWf := h.tempsWf
  busyPhase := by simp [hb, hp]
  request := by simp [hb]
  counts := hc
  noEngine := h.noEngine

/-- The rest of the invariant, of a busy block: its request, whose counts read 0. -/
theorem BlockInv.stateInv_of_busy (h : BlockInv s) (hb : s.busy = true) (hq : RequestInv s) :
    StateInv s where
  legal := h.legal
  bufWf := h.bufWf
  bufBelow := h.bufBelow
  tempsWf := h.tempsWf
  busyPhase := by
    obtain ⟨c, -, hfit⟩ := hq.current
    have hp : s.seq.phase ≠ .idle := fun hp => by simp [phaseFits, hp] at hfit
    simp [hb, hp]
  request _ := hq
  counts := by
    obtain ⟨-, hx, hr⟩ := hq.quiet
    simp [hx, hr]
  noEngine := h.noEngine

theorem StateInv.phase_of_idle (h : StateInv s) (hb : s.busy = false) : s.seq.phase = .idle := by
  by_contra hp
  simp [h.busyPhase.mpr hp] at hb

/-- What the invariant does not look at, or what a change leaves as it was. -/
theorem BlockInv.congr (h : BlockInv s) (hcaps : t.caps = s.caps) (hbuf : t.buf = s.buf)
    (htemps : t.host.temps = s.host.temps) (hacc : t.acc = s.acc) (hres : t.result = s.result) :
    BlockInv t := by
  constructor
  · rw [hcaps]; exact h.legal
  · rw [hbuf]; exact h.bufWf
  · rw [hbuf, hcaps]; exact h.bufBelow
  · rw [htemps]; exact h.tempsWf
  · rw [hcaps, hacc, hres]; exact h.noEngine

/-- The request in progress does not look at BUF, RESULT, CMD, OVR, the port or the host. -/
theorem RequestInv.congr (h : RequestInv s) (hcaps : t.caps = s.caps) (hseq : t.seq = s.seq)
    (hacc : t.acc = s.acc) (hcode : t.code = s.code) (hx : t.xferCount = s.xferCount)
    (hr : t.rxCount = s.rxCount) : RequestInv t := by
  constructor <;> simp only [State.currentChunk, phaseFits, hcaps, hseq, hacc, hcode, hx, hr]
  exacts [h.plan, h.fits, h.addr, h.kind, h.engine, h.current, h.sent, h.received, h.quiet, h.plain]

/-- CMD, OVR, the port's record, the model's own fields and the host's position are outside the
invariant. -/
theorem StateInv.environment (h : StateInv s) (cmd : Word) (ovr : Bool) (log : List BusEvent)
    (as : List BusAnswer) (sch : List Agent) (n : Nat) (p : Bool) (pc : Nat) :
    StateInv { s with
      cmd := cmd, ovr := ovr, busLog := log, answers := as, schedule := sch, draws := n, powerOn := p
      host := { s.host with pc := pc } } :=
  { h with request := fun hb => (h.request hb).congr rfl rfl rfl rfl rfl rfl }

/-- The invariant after power-on reset of a block with legal parameters (70_reset_and_hazards.md R250). -/
theorem stateInv_resetWith {p : Params} (hp : p.legal = true) : StateInv (State.resetWith p) :=
  BlockInv.stateInv_of_idle
    ⟨hp, rfl, fun _ hc => absurd hc List.not_mem_nil, rfl, fun _ => ⟨rfl, rfl⟩⟩ rfl rfl
    ⟨le_rfl, Nat.zero_le _⟩

/-! ## Operations outside the request in progress -/

theorem StateInv.setHostPc (h : StateInv s) (n : Nat) : StateInv (s.setHostPc n) :=
  h.environment _ _ _ _ _ _ _ _

theorem StateInv.setOvr (h : StateInv s) (b : Bool) : StateInv (s.setOvr b) :=
  h.environment _ _ _ _ _ _ _ _

theorem StateInv.acceptWord (h : StateInv s) (w : Word) : StateInv (s.acceptWord w) :=
  h.environment _ _ _ _ _ _ _ _

theorem StateInv.afterDraw (h : StateInv s) : StateInv s.afterDraw :=
  h.environment _ _ _ _ _ _ _ _

theorem StateInv.afterTurn (h : StateInv s) : StateInv s.afterTurn := by
  rw [State.afterTurn_frame]
  exact h.environment _ _ _ _ _ _ _ _

theorem StateInv.takeAnswer (h : StateInv s) : StateInv s.takeAnswer := by
  unfold State.takeAnswer
  split <;> exact h.environment _ _ _ _ _ _ _ _

theorem StateInv.setTemp (h : StateInv s) (n : Nat) (v : Word) : StateInv (s.setTemp n v) :=
  { h with
    tempsWf := cellsRising_cellWrite h.tempsWf n v
    request := fun hb => (h.request hb).congr rfl rfl rfl rfl rfl rfl }

theorem StateInv.powerOnReset (h : StateInv s) : StateInv s.powerOnReset := by
  have hreset := stateInv_resetWith h.legal
  exact { hreset with
    tempsWf := h.tempsWf
    request := fun hb => (hreset.request hb).congr rfl rfl rfl rfl rfl rfl }

/-- A write below n keeps BUF's listed indices below n. -/
theorem Memory.below_write {m : Memory} {n i : Nat} (h : m.below n) (hi : i < n) (b : Byte) :
    (m.write i b).below n := fun c hc => by
  rcases mem_cellWrite hc with rfl | hc
  · exact hi
  · exact h c hc

theorem BlockInv.setBuf_write (h : BlockInv s) {i : Nat} (hi : i < s.caps.bufCap) (b : Byte) :
    BlockInv (s.setBuf (s.buf.write i b)) :=
  { h with bufWf := Memory.wf_write h.bufWf i b, bufBelow := Memory.below_write h.bufBelow hi b }

/-! ## Operations of an idle block -/

section
variable (h : StateInv s) (idle : s.busy = false)
include h idle

theorem StateInv.setBuf_write_of_idle {i : Nat} (hi : i < s.caps.bufCap) (b : Byte) :
    StateInv (s.setBuf (s.buf.write i b)) :=
  (h.block.setBuf_write hi b).stateInv_of_idle idle (h.phase_of_idle idle) h.counts

theorem StateInv.raiseOutcome_of_idle (c : Code) : StateInv (s.raiseOutcome c) :=
  { h with request := fun hb => absurd idle (by simpa using hb) }

theorem StateInv.setResult_of_idle (v : Byte) (engine : s.caps.hasPec = true) :
    StateInv (s.setResult v) :=
  { h with
    request := fun hb => absurd idle (by simpa using hb)
    noEngine := fun hn => absurd engine (by simpa using hn) }

theorem StateInv.setCounts_zero_of_idle : StateInv (s.setCounts 0 0) :=
  { h with
    request := fun hb => absurd idle (by simpa using hb)
    counts := ⟨le_rfl, Nat.zero_le _⟩ }

theorem StateInv.execReset_of_idle :
    StateInv (((((s.setAcc 0x00#8).setResult 0#8).setCounts 0 0).issueBusReset).raiseOutcome
      .success) :=
  { h with
    request := fun hb => absurd idle (by simpa using hb)
    counts := ⟨le_rfl, Nat.zero_le _⟩
    noEngine := fun _ => ⟨rfl, rfl⟩ }

theorem StateInv.refuseStart_of_idle (c : Code) : StateInv (s.refuseStart c) :=
  (h.setCounts_zero_of_idle idle).raiseOutcome_of_idle idle c

theorem StateInv.latchRequest_of_idle (q : Request) : StateInv (s.latchRequest q) :=
  { h with
    request := fun hb => absurd idle (by simpa [State.latchRequest] using hb)
    counts := ⟨le_rfl, Nat.zero_le _⟩
    noEngine := fun hn => ⟨rfl, (h.noEngine hn).2⟩ }

end

/-! ## START acceptance -/

/-- A START_W has RLEN = 0 and a START_R has WLEN = 0 (30_encoding.md R88 (b), (c)). -/
theorem startOf_kind {i : Instr} {q : Request} (hq : startOf i = some q) :
    (q.op = .W → q.rlen = 0#8) ∧ (q.op = .R → q.wlen = 0#8) := by
  cases i <;> simp only [startOf, Option.some.injEq, reduceCtorEq] at hq <;> subst hq <;> simp

/-- A request that begins is at the address phase of its plan's first chunk (43_facade.md R196). -/
theorem requestInv_started {i : Instr} {q : Request} (hq : startOf i = some q)
    (addr : addrFits q.a10 q.addr = true) (fits : totalLen q.wlen q.rlen ≤ s.caps.maxTotal)
    (engine : q.pec = true → s.caps.hasPec = true)
    (nonempty : chunkPlan s.caps q.wlen.toNat q.rlen.toNat ≠ []) : RequestInv (s.started q) where
  plan := rfl
  fits := fits
  addr := addr
  kind := startOf_kind hq
  engine := engine
  current :=
    ⟨_, List.getElem?_eq_getElem (List.length_pos_iff.mpr nonempty), rfl, rfl⟩
  sent := rfl
  received := rfl
  quiet := ⟨rfl, rfl, rfl⟩
  plain _ := rfl

/-- A command accepted while the block is idle keeps the invariant. -/
theorem ExecNext.stateInv {i : Instr} (hn : ExecNext i s t) (h : StateInv s)
    (idle : s.busy = false) : StateInv t := by
  cases hn with
  | same => exact h
  | outcome c => exact h.raiseOutcome_of_idle idle c
  | checksum v c pec => exact (h.setResult_of_idle idle v pec).raiseOutcome_of_idle idle c
  | reset hi => exact h.execReset_of_idle idle
  | refuse c => exact h.refuseStart_of_idle idle c
  | latch q hq fits empty => exact h.latchRequest_of_idle idle q
  | begin q hq addr fits engine nonempty =>
    have hb : BlockInv (s.started q) :=
      (h.latchRequest_of_idle idle q).block.congr rfl rfl rfl rfl rfl
    exact hb.stateInv_of_busy rfl (requestInv_started hq addr fits engine nonempty)

/-- A host statement keeps the invariant. -/
theorem HostNext.stateInv (hn : HostNext s t) (h : StateInv s) : StateInv t := by
  cases hn with
  | same => exact h
  | jump n => exact h.setHostPc n
  | read n v => exact h.setTemp n v
  | draw n v => exact h.afterDraw.setTemp n v
  | overrun busy => exact h.setOvr true
  | store i b idle inBuf => exact h.setBuf_write_of_idle idle inBuf b
  | illegal w idle => exact (h.acceptWord w).raiseOutcome_of_idle idle .illegalCommand
  | command w i t idle hi next => exact next.stateInv (h.acceptWord w) idle

end Sys2Proof.Machine
end

section
/-! PROOFS. The invariant along a request (spec/42_transaction_driver.md R160 to R172; spec/43_facade.md R201): a
micro-step inside a chunk, the end of a chunk, and the step of the machine. -/

namespace Sys2Proof.Machine

variable {s t : State} {c : Chunk} {a : BusAnswer}

/-! ## The phases of a chunk -/

theorem phaseFits_addr (hp : s.seq.phase = .addr) :
    phaseFits s c ↔ s.seq.i = 0 ∧ s.seq.fail = none := by
  simp [phaseFits, hp]

theorem phaseFits_data (hp : s.seq.phase = .data) :
    phaseFits s c ↔ s.seq.i < c.len ∧ s.seq.fail = none := by
  simp [phaseFits, hp]

theorem phaseFits_pec (hp : s.seq.phase = .pec) :
    phaseFits s c ↔ s.seq.i = c.len ∧ s.seq.fail = none ∧ s.seq.req.pec = true := by
  simp [phaseFits, hp]

theorem phaseFits_stop (hp : s.seq.phase = .stop) :
    phaseFits s c ↔ s.seq.i = c.len ∧
      (s.seq.fail = none ∨
        (s.seq.fail = some .checksumMismatch ∧ c.dir = .R ∧ s.seq.req.pec = true)) := by
  simp [phaseFits, hp]

theorem phaseFits_abortStop (hp : s.seq.phase = .abortStop) :
    phaseFits s c ↔ s.seq.fail = some .deviceNotPresent ∨ s.seq.fail = some .busTimeout := by
  simp [phaseFits, hp]

/-- The current chunk of a request in progress fits its phase. -/
theorem RequestInv.phaseFits (h : RequestInv s) (hc : s.currentChunk = some c) : phaseFits s c := by
  obtain ⟨c', hc', hfit⟩ := h.current
  rw [hc] at hc'
  cases hc'
  exact hfit

/-- The current chunk is a chunk of the plan of the latched request. -/
theorem RequestInv.plan_current (h : RequestInv s) (hc : s.currentChunk = some c) :
    (chunkPlan s.caps s.seq.req.wlen.toNat s.seq.req.rlen.toNat)[s.seq.k]? = some c := by
  rw [← h.plan]; exact hc

/-- After a data byte the chunk goes on with its next byte, its PEC byte or its stop
(42_transaction_driver.md R166, R167). -/
theorem phaseFits_nextByte (hp : s.seq.phase = .data) (hi : s.seq.i < c.len)
    (hf : s.seq.fail = none) : phaseFits (s.nextByte c) c := by
  by_cases hl : s.seq.i + 1 = c.len
  · cases hpec : s.seq.req.pec <;> simp [phaseFits, State.nextByte, hl, hpec, hf]
  · have : s.seq.i + 1 < c.len := by omega
    simp [phaseFits, State.nextByte, hl, hp, hf, this]

/-- A failed primitive leaves one of the two failures of the bus. -/
theorem phaseFits_abort {r : Response} (bad : r ≠ .ok) : phaseFits (s.abort r) c := by
  cases r <;> simp_all [phaseFits, failOf]

/-! ## A micro-step inside a chunk -/

/-- t is later in the chunk that s is in: of the sequencer only seq.i, seq.fail and the phase may differ, and acc only
with PEC on. -/
structure LaterInChunk (s t : State) : Prop where
  seq : t.seq = { s.seq with i := t.seq.i, fail := t.seq.fail, phase := t.seq.phase }
  acc : s.seq.req.pec = false → t.acc = s.acc
  caps : t.caps = s.caps
  code : t.code = s.code
  busy : t.busy = s.busy
  xferCount : t.xferCount = s.xferCount
  rxCount : t.rxCount = s.rxCount

/-- Later in the chunk the request is still coherent, when the new phase fits the chunk. -/
theorem LaterInChunk.requestInv (hl : LaterInChunk s t) (h : RequestInv s)
    (hc : s.currentChunk = some c) (hfit : phaseFits t c) : RequestInv t := by
  have hreq : t.seq.req = s.seq.req := by rw [hl.seq]
  have hchunks : t.seq.chunks = s.seq.chunks := by rw [hl.seq]
  have hk : t.seq.k = s.seq.k := by rw [hl.seq]
  have htx : t.seq.tx = s.seq.tx := by rw [hl.seq]
  have hrx : t.seq.rx = s.seq.rx := by rw [hl.seq]
  constructor
  · rw [hchunks, hl.caps, hreq]; exact h.plan
  · rw [hreq, hl.caps]; exact h.fits
  · rw [hreq]; exact h.addr
  · rw [hreq]; exact h.kind
  · rw [hreq, hl.caps]; exact h.engine
  · exact ⟨c, by rw [State.currentChunk, hchunks, hk]; exact hc, hfit⟩
  · rw [htx, hchunks, hk]; exact h.sent
  · rw [hrx, hchunks, hk]; exact h.received
  · rw [hl.code, hl.xferCount, hl.rxCount]; exact h.quiet
  · rw [hreq]; exact fun hp => (hl.acc hp).trans (h.plain hp)

/-- The micro-steps of the address, data and PEC phases stay in their chunk. -/
theorem MicroNext.laterInChunk (hn : MicroNext c a s t)
    (hp : s.seq.phase ≠ .stop ∧ s.seq.phase ≠ .abortStop) : LaterInChunk s t := by
  cases hn with
  | idle _ => exact ⟨rfl, fun _ => rfl, rfl, rfl, rfl, rfl, rfl⟩
  | failed q _ _ _ => exact ⟨rfl, fun _ => rfl, rfl, rfl, rfl, rfl, rfl⟩
  | pecWrote _ _ _ => exact ⟨rfl, fun _ => rfl, rfl, rfl, rfl, rfl, rfl⟩
  | pecRead _ _ _ => exact ⟨rfl, fun _ => rfl, rfl, rfl, rfl, rfl, rfl⟩
  | addrOk _ _ => constructor <;> simp +contextual [State.fold_acc]
  | wroteOk b _ _ _ _ _ => constructor <;> simp +contextual [State.fold_acc, State.nextByte]
  | readOk _ _ _ _ => constructor <;> simp +contextual [State.fold_acc, State.nextByte]
  | stopped hs => exact absurd hs hp.1
  | aborted hs => exact absurd hs hp.2

/-- The phase after a micro-step of the address, data or PEC phase fits the chunk. -/
theorem MicroNext.phaseFits (hn : MicroNext c a s t) (hfit : phaseFits s c) (pos : 1 ≤ c.len)
    (hp : s.seq.phase ≠ .stop ∧ s.seq.phase ≠ .abortStop) : phaseFits t c := by
  cases hn with
  | idle _ => exact hfit
  | failed q _ _ bad => exact phaseFits_abort bad
  | addrOk hp _ =>
    obtain ⟨-, hf⟩ := (phaseFits_addr hp).mp hfit
    exact ⟨pos, hf⟩
  | wroteOk b hp _ _ _ _ =>
    obtain ⟨hi, hf⟩ := (phaseFits_data hp).mp hfit
    exact phaseFits_nextByte (by simpa using hp) (by simpa using hi) (by simpa using hf)
  | readOk hp _ _ _ =>
    obtain ⟨hi, hf⟩ := (phaseFits_data hp).mp hfit
    exact phaseFits_nextByte (by simpa using hp) (by simpa using hi) (by simpa using hf)
  | pecWrote hp _ _ =>
    obtain ⟨hi, hf, -⟩ := (phaseFits_pec hp).mp hfit
    exact ⟨hi, .inl hf⟩
  | pecRead hp hd _ =>
    obtain ⟨hi, hf, hpec⟩ := (phaseFits_pec hp).mp hfit
    refine ⟨hi, ?_⟩
    by_cases he : a.byte = s.acc
    · exact .inl (by simp [he, hf])
    · exact .inr ⟨by simp [he], hd, hpec⟩
  | stopped hs => exact absurd hs hp.1
  | aborted hs => exact absurd hs hp.2

/-! ## What a micro-step does to the rest of the block -/

theorem BlockInv.issue (h : BlockInv s) (q : BusRequest) (a : BusAnswer) :
    BlockInv (s.issue q a) := { h with }

theorem BlockInv.setSeq (h : BlockInv s) (q : Seq) : BlockInv (s.setSeq q) := { h with }

theorem BlockInv.endOfChunk (h : BlockInv s) (c : Chunk) : BlockInv (s.endOfChunk c) :=
  h.congr (by simp) (by simp) (by simp) (by simp) (by simp)

/-- Folding writes acc only with the engine. -/
theorem BlockInv.fold (h : BlockInv s) (engine : s.seq.req.pec = true → s.caps.hasPec = true)
    (bs : List Byte) : BlockInv (s.fold bs) := by
  unfold State.fold
  split_ifs with hp
  · exact { h with noEngine := fun hn => absurd (engine hp) (by simpa using hn) }
  · exact h

/-- A micro-step keeps the part of the invariant that says nothing of the request. -/
theorem MicroNext.blockInv (hn : MicroNext c a s t) (h : BlockInv s)
    (engine : s.seq.req.pec = true → s.caps.hasPec = true) : BlockInv t := by
  cases hn with
  | idle _ => exact h
  | failed q _ _ _ => exact (h.issue q a).setSeq _
  | pecWrote _ _ _ => exact (h.issue _ a).setSeq _
  | pecRead _ _ _ => exact (h.issue _ a).setSeq _
  | addrOk _ _ => exact ((h.issue _ a).fold engine _).setSeq _
  | wroteOk b _ _ _ _ _ => exact ((h.issue _ a).fold engine _).setSeq _
  | readOk _ _ _ inBuf =>
    exact (((h.issue _ a).setBuf_write inBuf a.byte).fold engine _).setSeq _
  | stopped _ => exact ((h.issue _ a).setSeq _).endOfChunk c
  | aborted _ => exact (h.issue _ a).endOfChunk c

/-! ## The end of a chunk -/

/-- A completed request leaves its counts in order, when it moved no more than the request's bytes
(43_facade.md R201). -/
theorem countsInOrder_complete (st : Code) (d : Dir) (legal : s.caps.legal = true)
    (moved : s.seq.tx + s.seq.rx ≤ s.caps.maxTotal) : CountsInOrder (s.complete st d) := by
  obtain ⟨-, -, hmax, -⟩ := legal_bounds legal
  unfold CountsInOrder
  by_cases hs : st = .success ∨ d = .R
  · obtain ⟨hx, hr⟩ := s.complete_counts hs
    rw [hx, hr, State.complete_caps, BitVec.toNat_ofNat, BitVec.toNat_ofNat,
      Nat.mod_eq_of_lt (by omega), Nat.mod_eq_of_lt (by omega)]
    omega
  · have hd : d = .W := by cases d <;> simp_all
    subst hd
    obtain ⟨hx, hr⟩ := s.complete_counts_write (st := st) (by simp_all)
    simp [hx, hr]

/-- The chunks completed so far, and the current one, move no more than MAX_TOTAL bytes. -/
theorem RequestInv.moved_le (h : RequestInv s) (legal : s.caps.legal = true)
    (hc : s.currentChunk = some c) :
    (s.seq.tx + dirBytesOf .W c) + (s.seq.rx + dirBytesOf .R c) ≤ s.caps.maxTotal := by
  have hck : s.seq.chunks[s.seq.k]? = some c := hc
  have hfits := h.fits
  rw [totalLen] at hfits
  rw [h.sent, h.received, ← dirBytes_take_succ hck, ← dirBytes_take_succ hck,
    dirBytes_write_add_read]
  calc _ ≤ (s.seq.chunks.map Chunk.len).sum := sum_len_take_le _ _
    _ = _ := by rw [h.plan, chunkPlan_sum legal]
    _ ≤ _ := hfits

/-- After a chunk that did not fail and is not the last, the request goes on with the next chunk
(42_transaction_driver.md R172). -/
theorem RequestInv.nextChunk (h : RequestInv s) (hc : s.currentChunk = some c)
    (hf : c.final = false) : RequestInv (s.countChunk c).nextChunk := by
  have hck : s.seq.chunks[s.seq.k]? = some c := hc
  have hnext : s.seq.k + 1 < s.seq.chunks.length := by
    rw [h.plan]; exact lt_length_of_chunkPlan_not_final (h.plan_current hc) hf
  constructor <;> simp only [State.currentChunk, State.nextChunk_seq, State.countChunk_seq,
    State.nextChunk_caps, State.countChunk_caps, State.nextChunk_code, State.countChunk_code,
    State.nextChunk_xferCount, State.countChunk_xferCount, State.nextChunk_rxCount,
    State.countChunk_rxCount, State.nextChunk_acc, State.countChunk_acc]
  · exact h.plan
  · exact h.fits
  · exact h.addr
  · exact h.kind
  · exact h.engine
  · exact ⟨_, List.getElem?_eq_getElem hnext, (phaseFits_addr rfl).mpr ⟨rfl, rfl⟩⟩
  · rw [dirBytes_take_succ hck, h.sent]
  · rw [dirBytes_take_succ hck, h.received]
  · exact h.quiet
  · exact h.plain

/-- The end of a chunk goes on with the next chunk, or the request is complete and has counted at most the chunk on
top of those before it; only a read chunk records a mismatch. -/
theorem endOfChunk_cases (s : State) (c : Chunk)
    (mismatch : s.seq.fail = some .checksumMismatch → c.dir = .R) :
    (s.seq.fail = none ∧ c.final = false ∧ s.endOfChunk c = (s.countChunk c).nextChunk) ∨
    ∃ (u : State) (st : Code) (d : Dir), s.endOfChunk c = u.complete st d ∧ u.caps = s.caps ∧
      u.seq.tx ≤ s.seq.tx + dirBytesOf .W c ∧ u.seq.rx ≤ s.seq.rx + dirBytesOf .R c := by
  unfold State.endOfChunk
  split
  next hf =>
    cases hl : c.final with
    | false => exact .inl ⟨hf, rfl, rfl⟩
    | true =>
      exact .inr ⟨s.countChunk c, .success, c.dir, rfl, by simp, by simp [State.countChunk_seq],
        by simp [State.countChunk_seq]⟩
  next hf => exact .inr ⟨_, _, _, rfl, rfl, by simp, by simp [dirBytesOf, mismatch hf]⟩
  next => exact .inr ⟨_, _, _, rfl, rfl, by simp, by simp⟩

/-- The end of a chunk keeps the invariant: s is where the chunk's stop is issued, u the same with the answer to the
stop recorded. -/
theorem StateInv.endOfChunk {u : State} (h : StateInv s) (busy : s.busy = true)
    (hc : s.currentChunk = some c) (hu : BlockInv u) (later : LaterInChunk s u)
    (hfit : u.seq.fail = none → phaseFits u c)
    (mismatch : u.seq.fail = some .checksumMismatch → c.dir = .R) : StateInv (u.endOfChunk c) := by
  have hblock := hu.endOfChunk c
  rcases endOfChunk_cases u c mismatch with ⟨hnone, hf, he⟩ | ⟨v, st, d, he, hcaps, htx, hrx⟩ <;>
    rw [he] at hblock ⊢
  · have hq : RequestInv u := later.requestInv (h.request busy) hc (hfit hnone)
    have hcu : u.currentChunk = some c := by rw [State.currentChunk, later.seq]; exact hc
    exact hblock.stateInv_of_busy (by simp [later.busy, busy]) (hq.nextChunk hcu hf)
  · have hmoved := (h.request busy).moved_le h.legal hc
    have htxu : u.seq.tx = s.seq.tx := by rw [later.seq]
    have hrxu : u.seq.rx = s.seq.rx := by rw [later.seq]
    have hv : v.seq.tx + v.seq.rx ≤ v.caps.maxTotal := by rw [hcaps, later.caps]; omega
    exact hblock.stateInv_of_idle (State.complete_busy v st d) rfl
      (countsInOrder_complete st d (hcaps ▸ hu.legal) hv)

/-! ## A micro-step and a step -/

/-- A stop that is answered leaves no mismatch that was not there before. -/
theorem or_failOf_eq_mismatch {f : Option ChunkFail} {r : Response}
    (h : f.or (failOf r) = some .checksumMismatch) : f = some .checksumMismatch := by
  cases f <;> cases r <;> simp_all [failOf]

/-- A micro-step keeps the invariant. -/
theorem MicroNext.stateInv (hn : MicroNext c a s t) (h : StateInv s) (busy : s.busy = true)
    (hc : s.currentChunk = some c) : StateInv t := by
  have hq := h.request busy
  have hfit := hq.phaseFits hc
  have hinside (hp : s.seq.phase ≠ .stop ∧ s.seq.phase ≠ .abortStop) : StateInv t := by
    have later := hn.laterInChunk hp
    have pos := one_le_len_of_chunkPlan h.legal (hq.plan_current hc)
    exact (hn.blockInv h.block hq.engine).stateInv_of_busy (later.busy.trans busy)
      (later.requestInv hq hc (hn.phaseFits hfit pos hp))
  cases hn with
  | stopped hp =>
    obtain ⟨hi, hfail⟩ := (phaseFits_stop hp).mp hfit
    refine h.endOfChunk busy hc ((h.block.issue _ a).setSeq _)
      ⟨rfl, fun _ => rfl, rfl, rfl, rfl, rfl, rfl⟩ (fun hnone => ?_) (fun hm => ?_)
    · refine (phaseFits_stop ?_).mpr ⟨hi, .inl hnone⟩
      exact hp
    · have hm := or_failOf_eq_mismatch hm
      rcases hfail with hnone | ⟨-, hd, -⟩
      · rw [hm] at hnone; cases hnone
      · exact hd
  | aborted hp =>
    have hfail := (phaseFits_abortStop hp).mp hfit
    refine h.endOfChunk busy hc (h.block.issue _ a)
      ⟨rfl, fun _ => rfl, rfl, rfl, rfl, rfl, rfl⟩ (fun hnone => ?_) (fun hm => ?_)
    · simp only [State.issue_seq] at hnone; simp [hnone] at hfail
    · simp only [State.issue_seq] at hm; simp [hm] at hfail
  | idle hp => exact hinside (by simp [hp])
  | addrOk hp _ => exact hinside (by simp [hp])
  | wroteOk b hp _ _ _ _ => exact hinside (by simp [hp])
  | readOk hp _ _ _ => exact hinside (by simp [hp])
  | pecWrote hp _ _ => exact hinside (by simp [hp])
  | pecRead hp _ _ => exact hinside (by simp [hp])
  | failed q _ hp _ => exact hinside (by rcases hp with hp | hp | hp <;> simp [hp])

/-- A step keeps the invariant. -/
theorem StepNext.stateInv (hn : StepNext s t) (h : StateInv s) : StateInv t := by
  have hturn {u : State} (hu : u = s ∨ u = s.afterTurn) : StateInv u ∧ u.busy = s.busy := by
    rcases hu with rfl | rfl
    · exact ⟨h, rfl⟩
    · exact ⟨h.afterTurn, by rw [State.afterTurn_frame]⟩
  cases hn with
  | powerOn hp => exact h.powerOnReset
  | finished hh hs => exact h
  | host u t hu next => exact next.stateInv ((hturn hu).1.setHostPc _)
  | sequencer u t hu busy next =>
    obtain ⟨hinv, hb⟩ := hturn hu
    obtain ⟨c, hc, hm⟩ := microStep_next next
    exact hm.stateInv hinv.takeAnswer (by simp [hb, busy]) hc

/-- Settles O38: each agent's step keeps the invariant, by the cases of the inversion lemmas of the step. -/
theorem stepKeepsInvariant : Obligations.StepKeepsInvariant :=
  fun _ _ h hstep => (step_next hstep).stateInv h

end Sys2Proof.Machine
end

section
/-! PROOFS. What a request depends on (spec/10_state.md R47, spec/41_segmenter.md R145): each operation of the driver
keeps the agreement of two states, and so do START acceptance and the micro-step. -/

namespace Sys2Proof.Machine

variable {s s' t : State} {c : Chunk} {a : BusAnswer}

/-! ## Operations keep the agreement -/

namespace RequestAgrees

theorem issue (h : RequestAgrees s s') (q : BusRequest) (a : BusAnswer) :
    RequestAgrees (s.issue q a) (s'.issue q a) := { h with }

theorem raiseOutcome (h : RequestAgrees s s') (st : Code) :
    RequestAgrees (s.raiseOutcome st) (s'.raiseOutcome st) := { h with code := rfl }

theorem setBusy (h : RequestAgrees s s') (b : Bool) :
    RequestAgrees (s.setBusy b) (s'.setBusy b) := { h with busy := rfl }

theorem setCounts (h : RequestAgrees s s') (x r : Nat) :
    RequestAgrees (s.setCounts x r) (s'.setCounts x r) := { h with xfer := rfl, rx := rfl }

theorem setAcc (h : RequestAgrees s s') (v : Byte) :
    RequestAgrees (s.setAcc v) (s'.setAcc v) := { h with acc := rfl }

/-- The two sequencers may change together, as long as the latched request stays. -/
theorem setSeq (h : RequestAgrees s s') {q q' : Seq} (hq : q = q') (hreq : q.req = s.seq.req) :
    RequestAgrees (s.setSeq q) (s'.setSeq q') :=
  { h with
    seq := hq
    writePart := fun i hi => h.writePart i (by rw [← hreq]; exact hi) }

theorem setBuf_write (h : RequestAgrees s s') (i : Nat) (b : Byte) :
    RequestAgrees (s.setBuf (s.buf.write i b)) (s'.setBuf (s'.buf.write i b)) :=
  { h with
    writePart := fun j hj => by
      by_cases hji : j = i
      · simp [hji]
      · rw [State.setBuf_buf, State.setBuf_buf, Memory.read_write_other _ _ hji,
          Memory.read_write_other _ _ hji]
        exact h.writePart j hj }

theorem fold (h : RequestAgrees s s') (bs : List Byte) :
    RequestAgrees (s.fold bs) (s'.fold bs) := by
  unfold State.fold
  rw [← h.seq, ← h.acc]
  split_ifs
  · exact h.setAcc _
  · exact h

theorem abort (h : RequestAgrees s s') (r : Response) :
    RequestAgrees (s.abort r) (s'.abort r) := h.setSeq (by rw [h.seq]) rfl

theorem nextByte (h : RequestAgrees s s') (c : Chunk) :
    RequestAgrees (s.nextByte c) (s'.nextByte c) := h.setSeq (by rw [h.seq]) rfl

theorem nextChunk (h : RequestAgrees s s') : RequestAgrees s.nextChunk s'.nextChunk :=
  h.setSeq (by rw [h.seq]) rfl

theorem countChunk (h : RequestAgrees s s') (c : Chunk) :
    RequestAgrees (s.countChunk c) (s'.countChunk c) := by
  unfold State.countChunk
  split <;> exact h.setSeq (by rw [h.seq]) rfl

theorem complete (h : RequestAgrees s s') (st : Code) (d : Dir) :
    RequestAgrees (s.complete st d) (s'.complete st d) := by
  have finish {u u' : State} (hu : RequestAgrees u u') (hs : u.seq = s.seq) :
      RequestAgrees (((u.raiseOutcome st).setBusy false).setSeq { s.seq with phase := .idle })
        (((u'.raiseOutcome st).setBusy false).setSeq { s'.seq with phase := .idle }) :=
    ((hu.raiseOutcome st).setBusy false).setSeq (by rw [h.seq]) (by simp [hs])
  unfold State.complete
  rw [← h.seq] at finish ⊢
  cases st <;> cases d <;> exact finish (h.setCounts _ _) rfl

theorem endOfChunk (h : RequestAgrees s s') (c : Chunk) :
    RequestAgrees (s.endOfChunk c) (s'.endOfChunk c) := by
  unfold State.endOfChunk
  rw [← h.seq]
  split
  · split_ifs
    · exact (h.countChunk c).complete _ _
    · exact (h.countChunk c).nextChunk
  · refine complete (h.setSeq ?_ ?_) _ _ <;> rfl
  · exact h.complete _ _

/-! ## Phases keep the agreement -/

theorem after_addrPhase (h : RequestAgrees s s') (c : Chunk) (a : BusAnswer) :
    RequestAgrees (addrPhase c a s) (addrPhase c a s') := by
  unfold addrPhase
  rw [← h.seq]
  cases a.resp with
  | ok => exact ((h.issue _ a).fold _).setSeq (by simp [h.seq]) (by simp)
  | noAck => exact (h.issue _ a).abort .noAck
  | timeout => exact (h.issue _ a).abort .timeout

theorem after_pecWritePhase (h : RequestAgrees s s') (a : BusAnswer) :
    RequestAgrees (pecWritePhase a s) (pecWritePhase a s') := by
  unfold pecWritePhase
  rw [← h.acc]
  cases a.resp with
  | ok => exact (h.issue _ a).setSeq (by simp [h.seq]) rfl
  | noAck => exact (h.issue _ a).abort .noAck
  | timeout => exact (h.issue _ a).abort .timeout

theorem after_pecReadPhase (h : RequestAgrees s s') (a : BusAnswer) :
    RequestAgrees (pecReadPhase a s) (pecReadPhase a s') := by
  unfold pecReadPhase
  have hi := h.issue (.readByte true) a
  dsimp only
  rw [← hi.seq, ← hi.acc]
  cases a.resp with
  | ok => exact hi.setSeq rfl rfl
  | noAck => exact hi.abort .noAck
  | timeout => exact hi.abort .timeout

theorem after_stopPhase (h : RequestAgrees s s') (c : Chunk) (a : BusAnswer) :
    RequestAgrees (stopPhase c a s) (stopPhase c a s') := by
  unfold stopPhase
  dsimp only [State.issue_seq]
  rw [← h.seq]
  refine (setSeq (h.issue _ a) ?_ ?_).endOfChunk c <;> rfl

theorem after_abortStopPhase (h : RequestAgrees s s') (c : Chunk) (a : BusAnswer) :
    RequestAgrees (abortStopPhase c a s) (abortStopPhase c a s') := (h.issue _ a).endOfChunk c

theorem after_dataReadPhase (h : RequestAgrees s s') (hstep : dataReadPhase c a s = .next t) :
    ∃ t', dataReadPhase c a s' = .next t' ∧ RequestAgrees t t' := by
  have hlast : s'.lastDataRead c = s.lastDataRead c := by
    rw [State.lastDataRead, State.lastDataRead, h.seq]
  unfold dataReadPhase at hstep ⊢
  dsimp only [State.issue_seq] at hstep ⊢
  rw [hlast, ← h.seq]
  cases hr : a.resp with
  | ok =>
    simp only [hr] at hstep ⊢
    cases hm : (s.issue (.readByte (s.lastDataRead c)) a).memWrite (c.start + s.seq.i) a.byte with
    | error f => simp [hm] at hstep
    | ok u =>
      obtain ⟨hi, rfl⟩ := State.memWrite_ok.mp hm
      have hm' : (s'.issue (.readByte (s.lastDataRead c)) a).memWrite (c.start + s.seq.i) a.byte = _ :=
        State.memWrite_ok.mpr ⟨h.caps ▸ hi, rfl⟩
      simp only [hm, hm'] at hstep ⊢
      cases hstep
      exact ⟨_, rfl, (((h.issue _ a).setBuf_write _ a.byte).fold _).nextByte c⟩
  | noAck => simp only [hr] at hstep ⊢; cases hstep; exact ⟨_, rfl, (h.issue _ a).abort .noAck⟩
  | timeout => simp only [hr] at hstep ⊢; cases hstep; exact ⟨_, rfl, (h.issue _ a).abort .timeout⟩

/-- A data byte of a write chunk is the same in both states when the byte sent is. -/
theorem after_dataWritePhase (h : RequestAgrees s s')
    (hread : s.buf.read (c.start + s.seq.i) = s'.buf.read (c.start + s.seq.i))
    (hstep : dataWritePhase c a s = .next t) :
    ∃ t', dataWritePhase c a s' = .next t' ∧ RequestAgrees t t' := by
  have hmem : s'.memRead (c.start + s'.seq.i) = s.memRead (c.start + s.seq.i) := by
    simp only [State.memRead, ← h.seq, ← h.caps, hread]
  unfold dataWritePhase at hstep ⊢
  rw [hmem]
  cases hm : s.memRead (c.start + s.seq.i) with
  | error f => simp [hm] at hstep
  | ok b =>
    cases hr : a.resp <;> simp only [hm, hr] at hstep ⊢ <;> cases hstep
    · exact ⟨_, rfl, ((h.issue _ a).fold _).nextByte c⟩
    · exact ⟨_, rfl, (h.issue _ a).abort .noAck⟩
    · exact ⟨_, rfl, (h.issue _ a).abort .timeout⟩

/-- The byte that a data phase of a write chunk sends lies in the write part, where both states agree. -/
theorem read_current (h : RequestAgrees s s') (legal : s.caps.legal = true) (hq : RequestInv s)
    (hc : s.currentChunk = some c) (hp : s.seq.phase = .data) (hd : c.dir = .W) :
    s.buf.read (c.start + s.seq.i) = s'.buf.read (c.start + s.seq.i) := by
  obtain ⟨hi, -⟩ := (phaseFits_data hp).mp (hq.phaseFits hc)
  have hend := write_chunk_end_le legal (hq.plan_current hc) hd
  exact h.writePart _ (by omega)

theorem currentChunk (h : RequestAgrees s s') : s.currentChunk = s'.currentChunk := by
  rw [State.currentChunk, State.currentChunk, h.seq]

/-- A micro-step keeps the agreement. -/
theorem after_microStep (h : RequestAgrees s s')
    (hread : ∀ c, s.currentChunk = some c → s.seq.phase = .data → c.dir = .W →
      s.buf.read (c.start + s.seq.i) = s'.buf.read (c.start + s.seq.i))
    (hstep : microStep a s = .next t) :
    ∃ t', microStep a s' = .next t' ∧ RequestAgrees t t' := by
  obtain ⟨c, hc, -⟩ := microStep_next hstep
  have hc' : s'.currentChunk = some c := h.currentChunk ▸ hc
  cases hp : s.seq.phase with
  | idle =>
    have hp' : s'.seq.phase = .idle := h.seq ▸ hp
    simp only [microStep, hc, hp] at hstep
    cases hstep
    exact ⟨s', by simp [microStep, hc', hp'], h⟩
  | addr =>
    rw [microStep_addr a hc hp] at hstep
    cases hstep
    exact ⟨_, microStep_addr a hc' (h.seq ▸ hp), h.after_addrPhase c a⟩
  | data =>
    have hp' : s'.seq.phase = .data := h.seq ▸ hp
    cases hd : c.dir with
    | W =>
      rw [microStep_dataWrite a hc hp hd] at hstep
      rw [microStep_dataWrite a hc' hp' hd]
      exact h.after_dataWritePhase (hread c hc hp hd) hstep
    | R =>
      rw [microStep_dataRead a hc hp hd] at hstep
      rw [microStep_dataRead a hc' hp' hd]
      exact h.after_dataReadPhase hstep
  | pec =>
    have hp' : s'.seq.phase = .pec := h.seq ▸ hp
    cases hd : c.dir with
    | W =>
      rw [microStep_pecWrite a hc hp hd] at hstep
      cases hstep
      exact ⟨_, microStep_pecWrite a hc' hp' hd, h.after_pecWritePhase a⟩
    | R =>
      rw [microStep_pecRead a hc hp hd] at hstep
      cases hstep
      exact ⟨_, microStep_pecRead a hc' hp' hd, h.after_pecReadPhase a⟩
  | stop =>
    rw [microStep_stop a hc hp] at hstep
    cases hstep
    exact ⟨_, microStep_stop a hc' (h.seq ▸ hp), h.after_stopPhase c a⟩
  | abortStop =>
    rw [microStep_abortStop a hc hp] at hstep
    cases hstep
    exact ⟨_, microStep_abortStop a hc' (h.seq ▸ hp), h.after_abortStopPhase c a⟩

/-- Both states issue the same downstream request. -/
theorem primitive (h : RequestAgrees s s')
    (hread : s.seq.phase = .data → c.dir = .W →
      s.buf.read (c.start + s.seq.i) = s'.buf.read (c.start + s.seq.i)) :
    s.primitive c = s'.primitive c := by
  unfold State.primitive State.lastDataRead
  rw [← h.seq, ← h.acc]
  cases hp : s.seq.phase with
  | data =>
    cases hd : c.dir with
    | W => rw [hread hp hd]
    | R => rfl
  | pec => cases c.dir <;> rfl
  | _ => rfl

end RequestAgrees

/-! ## The downstream request of a micro-step -/

/-- A micro-step outside phase Idle issues the request of its phase, with the collaborator's answer
(42_transaction_driver.md R160). -/
theorem MicroNext.busLog (hn : MicroNext c a s t) (hp : s.seq.phase ≠ .idle) :
    ∃ q, s.primitive c = some q ∧ t.busLog = s.busLog ++ [answered q a] := by
  cases hn with
  | idle hi => exact absurd hi hp
  | addrOk hp _ =>
    exact ⟨.startCycle (addrBytes s.seq.req.addr s.seq.req.a10 c.dir.rw),
      by simp [State.primitive, hp], by simp⟩
  | wroteOk b hp hd _ _ hb => exact ⟨.writeByte b, by simp [State.primitive, hp, hd, hb], by simp⟩
  | readOk hp hd _ _ =>
    exact ⟨.readByte (s.lastDataRead c), by simp [State.primitive, hp, hd], by simp⟩
  | pecWrote hp hd _ => exact ⟨.writeByte s.acc, by simp [State.primitive, hp, hd], by simp⟩
  | pecRead hp hd _ => exact ⟨.readByte true, by simp [State.primitive, hp, hd], by simp⟩
  | failed q hq _ _ => exact ⟨q, hq, by simp⟩
  | stopped hp => exact ⟨.stopCycle, by simp [State.primitive, hp], by simp⟩
  | aborted hp => exact ⟨.stopCycle, by simp [State.primitive, hp], by simp⟩

/-- Agreeing states with the invariant take micro-steps that agree again, with the same downstream request and
answer. -/
theorem RequestAgrees.after_microStep_of_inv (h : RequestAgrees s s') (hinv : StateInv s)
    (busy : s.busy = true) (hstep : microStep a s = .next t) :
    ∃ t' e, microStep a s' = .next t' ∧ RequestAgrees t t' ∧
      t.busLog = s.busLog ++ [e] ∧ t'.busLog = s'.busLog ++ [e] := by
  have hread (c : Chunk) (hc : s.currentChunk = some c) :=
    h.read_current hinv.legal (hinv.request busy) hc
  have hp : s.seq.phase ≠ .idle := hinv.busyPhase.mp busy
  obtain ⟨t', hstep', hagree⟩ := h.after_microStep hread hstep
  obtain ⟨c, hc, hn⟩ := microStep_next hstep
  obtain ⟨c', hc', hn'⟩ := microStep_next hstep'
  obtain rfl : c = c' := by simpa [hc, hc'] using h.currentChunk
  obtain ⟨q, hq, hlog⟩ := hn.busLog hp
  obtain ⟨q', hq', hlog'⟩ := hn'.busLog (h.seq ▸ hp)
  obtain rfl : q = q' := by simpa [hq, hq'] using h.primitive (hread c hc)
  exact ⟨t', _, hstep', hagree, hlog, hlog'⟩

/-! ## START acceptance -/

/-- The state after START acceptance, by its checks in order (43_facade.md R196). -/
theorem startRequest_eq (q : Request) (s : State) :
    startRequest q s = .next
      (if s.caps.maxTotal < totalLen q.wlen q.rlen then s.refuseStart .unsupportedLength
      else if q.pec = true ∧ s.caps.hasPec = false then s.refuseStart .notImplemented
      else if chunkPlan s.caps q.wlen.toNat q.rlen.toNat = [] then s.latchRequest q
      else s.started q) := by
  rcases startRequest_cases q s with
    ⟨hlong, e⟩ | ⟨hfits, hpec, hno, e⟩ | ⟨hfits, hpec, hempty, e⟩ | ⟨hfits, hpec, hsome, e⟩ <;> rw [e]
  · rw [if_pos hlong]
  · rw [if_neg (by omega), if_pos ⟨hpec, hno⟩]
  · rw [if_neg (by omega), if_neg (by simp_all), if_pos hempty]
  · rw [if_neg (by omega), if_neg (by simp_all), if_neg hsome]

/-- Two idle blocks with the same parameters and the same write part begin a request alike. -/
theorem requestAgrees_started {q : Request} (hcaps : s.caps = s'.caps)
    (hbuf : ∀ j < q.wlen.toNat, s.buf.read j = s'.buf.read j) :
    RequestAgrees (s.started q) (s'.started q) where
  caps := hcaps
  seq := by simp [State.started, State.latchRequest, hcaps]
  acc := rfl
  code := rfl
  busy := rfl
  xfer := rfl
  rx := rfl
  writePart := hbuf

/-- Two idle blocks with the same parameters accept a START alike (43_facade.md R196). -/
theorem startRequest_agrees {q : Request} (idle : s.busy = false) (idle' : s'.busy = false)
    (hcaps : s.caps = s'.caps) (hbuf : ∀ j < q.wlen.toNat, s.buf.read j = s'.buf.read j)
    (hs : startRequest q s = .next t) :
    ∃ t', startRequest q s' = .next t' ∧ t.code = t'.code ∧ t.busy = t'.busy ∧
      t.xferCount = t'.xferCount ∧ t.rxCount = t'.rxCount ∧
      (t.busy = true → RequestAgrees t t') := by
  rw [startRequest_eq] at hs
  cases hs
  refine ⟨_, startRequest_eq q s', ?_⟩
  rw [← hcaps]
  split_ifs
  · simp [State.refuseStart, idle, idle']
  · simp [State.refuseStart, idle, idle']
  · simp [State.latchRequest, idle, idle']
  · exact ⟨rfl, rfl, rfl, rfl, fun _ => requestAgrees_started hcaps hbuf⟩

/-- Settles O48: START acceptance looks at the parameters alone, and a micro-step at what RequestAgrees names, since
the byte that a write chunk sends lies in the write part. -/
theorem requestDependsOnlyOnItsInputs : Obligations.RequestDependsOnlyOnItsInputs := by
  refine ⟨fun s s' t i q hq idle idle' hcaps hbuf hs hcode => ?_,
    fun s s' t a hinv busy h hstep => h.after_microStep_of_inv hinv busy hstep⟩
  cases ha : addrFits q.a10 q.addr with
  | false =>
    rw [exec_start_illegal hq ha] at hs
    cases hs
    exact absurd rfl hcode
  | true =>
    rw [exec_start hq ha] at hs ⊢
    exact startRequest_agrees idle idle' hcaps hbuf hs

end Sys2Proof.Machine
end

section
/-! PROOFS. The capabilities (spec/10_state.md R27, R32): no step changes one. -/

namespace Sys2Proof.Machine

variable {s t : State}

@[simp] theorem State.acceptWord_caps (s : State) (w : Word) : (s.acceptWord w).caps = s.caps := rfl
@[simp] theorem State.refuseStart_caps (s : State) (c : Code) : (s.refuseStart c).caps = s.caps := rfl
@[simp] theorem State.latchRequest_caps (s : State) (q : Request) :
    (s.latchRequest q).caps = s.caps := rfl
@[simp] theorem State.started_caps (s : State) (q : Request) : (s.started q).caps = s.caps := rfl
@[simp] theorem State.powerOnReset_caps (s : State) : s.powerOnReset.caps = s.caps := rfl
@[simp] theorem State.afterTurn_caps (s : State) : s.afterTurn.caps = s.caps := by
  rw [State.afterTurn_frame]

theorem ExecNext.caps_eq {i : Instr} (hn : ExecNext i s t) : t.caps = s.caps := by
  cases hn <;> simp

theorem HostNext.caps_eq (hn : HostNext s t) : t.caps = s.caps := by
  cases hn with
  | command w i t idle hi next => exact next.caps_eq
  | _ => simp

theorem MicroNext.caps_eq {c : Chunk} {a : BusAnswer} (hn : MicroNext c a s t) :
    t.caps = s.caps := by
  cases hn <;> simp

theorem StepNext.caps_eq (hn : StepNext s t) : t.caps = s.caps := by
  have hturn {u : State} (hu : u = s ∨ u = s.afterTurn) : u.caps = s.caps := by
    rcases hu with rfl | rfl <;> simp
  cases hn with
  | powerOn hp => exact State.powerOnReset_caps s
  | finished hh hs => rfl
  | host u t hu next => exact next.caps_eq.trans ((u.setHostPc_caps _).trans (hturn hu))
  | sequencer u t hu busy next =>
    obtain ⟨c, -, hm⟩ := microStep_next next
    exact hm.caps_eq.trans (u.takeAnswer_caps.trans (hturn hu))

/-- The CAP registers show the capabilities and nothing else (10_state.md R27). -/
theorem readReg_cap_congr (h : t.caps = s.caps) {off : BitVec 9}
    (hoff : off ∈ [0x018#9, 0x01C#9, 0x020#9, 0x024#9]) : t.readReg off = s.readReg off := by
  fin_cases hoff <;> simp [State.readReg, h]

/-- Settles O40: the two agents' steps and power-on reset each keep the parameters, which the CAP registers show. -/
theorem capabilitiesNeverChange : Obligations.CapabilitiesNeverChange := by
  intro s t hstep
  have hcaps : t.caps = s.caps := (step_next hstep).caps_eq
  exact ⟨hcaps, readReg_cap_congr hcaps (by simp), readReg_cap_congr hcaps (by simp),
    readReg_cap_congr hcaps (by simp), readReg_cap_congr hcaps (by simp)⟩

end Sys2Proof.Machine
end

section
/-! PROOFS. The registers at the host port (spec/10_state.md R20 to R29, R45; spec/30_encoding.md R90). -/

namespace Sys2Proof.Machine

variable {s : State} {off : BitVec 9}

/-! ## Register accesses -/

/-- A 32-bit access at an aligned offset below 0x100 is a register access (10_state.md R45). -/
theorem isRegAccess_of_aligned (hlt : off.toNat < 0x100) (hal : off.toNat % 4 = 0) :
    isRegAccess 32 off = true := by
  simp [isRegAccess, hlt, hal]

theorem hostStmt_r32_of_aligned (hlt : off.toNat < 0x100) (hal : off.toNat % 4 = 0) (n : Nat) :
    hostStmt (r32 off n) s = .next (s.setTemp n (s.readReg off)) := by
  simp [hostStmt, r32, hostRead, isRegAccess_of_aligned hlt hal]

/-- A register other than CMD ignores a write (10_state.md R28, R29). -/
theorem hostStmt_w32_of_not_cmd (hne : off ≠ 0x000#9) (hlt : off.toNat < 0x100)
    (hal : off.toNat % 4 = 0) (v : Word) : hostStmt (w32 off v) s = .next s := by
  simp [hostStmt, w32, hostWrite, isRegAccess_of_aligned hlt hal, hne]

/-- An offset past the last register reads 0 (10_state.md R28). -/
theorem readReg_reserved (h : 0x028 ≤ off.toNat) : s.readReg off = 0#32 := by
  have hne (k : BitVec 9) (hk : k.toNat < 0x028) : off ≠ k := fun he => by
    rw [he] at h
    omega
  simp [State.readReg, hne]

/-! ## STATUS -/

/-- CODE is STATUS[3:0]. -/
theorem statusWord_code (s : State) : s.statusWord.toNat % 16 = s.code.bits.toNat := by
  have hlow : s.statusWord.setWidth 4 = s.code.bits := BitVec.setWidth_append_eq_right
  rw [← hlow, BitVec.toNat_setWidth]

theorem statusWord_busy (s : State) : s.statusWord.getLsbD 8 = s.busy := by
  simp only [State.statusWord, BitVec.getLsbD_append, BitVec.getLsbD_ofBool]
  simp

theorem statusWord_ovr (s : State) : s.statusWord.getLsbD 9 = s.ovr := by
  simp only [State.statusWord, BitVec.getLsbD_append, BitVec.getLsbD_ofBool]
  simp

theorem statusWord_pecImpl (s : State) : s.statusWord.getLsbD 16 = s.caps.hasPec := by
  simp only [State.statusWord, BitVec.getLsbD_append, BitVec.getLsbD_ofBool]
  simp

/-- The bits of STATUS outside its four fields are 0. -/
theorem statusWord_reserved (s : State) {b : Nat} (hcode : 4 ≤ b) (hbusy : b ≠ 8) (hovr : b ≠ 9)
    (hpec : b ≠ 16) : s.statusWord.getLsbD b = false := by
  simp only [State.statusWord, BitVec.getLsbD_append, BitVec.getLsbD_zero]
  split_ifs
  · omega
  · rfl
  · omega
  · omega
  · rfl
  · omega
  · rfl

/-- The numbers of the status codes (30_encoding.md R90). -/
theorem code_bits_toNat (c : Code) :
    c.bits.toNat =
      match c with
      | .success => 0
      | .deviceNotPresent => 1
      | .busTimeout => 2
      | .checksumMismatch => 3
      | .unsupportedLength => 4
      | .notImplemented => 5
      | .illegalCommand => 6 := by
  cases c <;> rfl

/-- Settles O49: STATUS by its fields, every other register by its row of readReg. -/
theorem registerReads : Obligations.RegisterReads := by
  intro s
  refine ⟨fun off n hlt hal => hostStmt_r32_of_aligned hlt hal n, rfl,
    ⟨?_, statusWord_busy s, statusWord_ovr s, statusWord_pecImpl s,
      fun b => statusWord_reserved s⟩,
    ?_, ?_, ?_, ?_, fun off hlo _ _ => readReg_reserved hlo⟩
  · exact (statusWord_code s).trans (code_bits_toNat s.code)
  · exact BitVec.toNat_setWidth_of_le (b := s.xferCount) (by decide)
  · exact BitVec.toNat_setWidth_of_le (b := s.rxCount) (by decide)
  · exact BitVec.toNat_setWidth_of_le (b := s.result) (by decide)
  · exact BitVec.toNat_setWidth_of_le (b := s.acc) (by decide)

/-- Settles O50: a register access at an offset other than CMD's. -/
theorem readOnlyRegistersIgnoreWrites : Obligations.ReadOnlyRegistersIgnoreWrites := by
  intro s off v hlo hhi hal
  refine hostStmt_w32_of_not_cmd (fun he => ?_) (by omega) hal v
  simp [he] at hlo

end Sys2Proof.Machine
end

section
/-! PROOFS. BUF at the host port (spec/20_memory.md R60, R63 to R66; spec/10_state.md R33, R45;
spec/70_reset_and_hazards.md R251). -/

namespace Sys2Proof.Machine

variable {s t : State} {off : BitVec 9} {i n : Nat}

/-! ## Temporaries of the host -/

@[simp] theorem State.temp_setTemp_same (s : State) (n : Nat) (v : Word) :
    (s.setTemp n v).temp n = v := by
  simp [State.temp, State.setTemp]

theorem State.temp_setTemp_other (s : State) {n m : Nat} (v : Word) (h : m ≠ n) :
    (s.setTemp n v).temp m = s.temp m := by
  simp [State.temp, State.setTemp, cellRead_cellWrite_other _ _ h]

/-! ## BUF accesses -/

/-- An 8-bit access is never a register access (10_state.md R45). -/
@[simp] theorem isRegAccess_byte (off : BitVec 9) : isRegAccess 8 off = false := by
  simp [isRegAccess]

/-- An 8-bit access at offset 0x100 + i is a BUF access (10_state.md R45). -/
theorem isBufAccess_of_toNat (h : off.toNat = 0x100 + i) : isBufAccess 8 off = true := by
  simp [isBufAccess, h]

/-- Offset 0x100 + i is index i (20_memory.md R60). -/
theorem bufIndex_of_toNat (h : off.toNat = 0x100 + i) : bufIndex off = i :=
  Nat.sub_eq_of_eq_add' h

theorem hostStmt_w8_of_toNat (h : off.toNat = 0x100 + i) (b : Byte) (s : State) :
    hostStmt (w8 off b) s = .next (bufWrite i b s) := by
  have hb : (b.setWidth 32).setWidth 8 = b := by simp
  simp only [hostStmt, w8, hostWrite, isRegAccess_byte, isBufAccess_of_toNat h,
    bufIndex_of_toNat h, hb, Bool.false_eq_true, if_false, if_true]

theorem hostStmt_r8_of_toNat (h : off.toNat = 0x100 + i) (n : Nat) (s : State) :
    hostStmt (r8 off n) s = .next ((bufRead i s).2.setTemp n ((bufRead i s).1.setWidth 32)) := by
  simp only [hostStmt, r8, hostRead, isRegAccess_byte, isBufAccess_of_toNat h,
    bufIndex_of_toNat h, Bool.false_eq_true, if_false, if_true]

/-! ## A write of a BUF byte, by case (20_memory.md R64) -/

theorem bufWrite_reserved (h : s.caps.bufCap ≤ i) (b : Byte) : bufWrite i b s = s := by
  simp [bufWrite, h]

theorem bufWrite_busy (h : i < s.caps.bufCap) (hb : s.busy = true) (b : Byte) :
    bufWrite i b s = s.setOvr true := by
  simp [bufWrite, h, hb]

theorem bufWrite_idle (h : i < s.caps.bufCap) (hb : s.busy = false) (b : Byte) :
    bufWrite i b s = s.setBuf (s.buf.write i b) := by
  simp [bufWrite, h, hb]

/-- Settles O51, by the three cases of a write of a BUF byte. -/
theorem bufferWrites : Obligations.BufferWrites := by
  intro s off b i hoff
  rw [hostStmt_w8_of_toNat hoff]
  refine ⟨fun hres => ?_, fun hi hb => ?_, fun hi hb => ?_⟩
  · rw [bufWrite_reserved hres]
  · rw [bufWrite_busy hi hb]; rfl
  · rw [bufWrite_idle hi hb]
    exact ⟨s.buf.write i b, rfl, s.buf.read_write_same i b,
      fun j hj => s.buf.read_write_other b hj⟩

/-! ## A read of a BUF byte, by case (20_memory.md R65) -/

theorem bufRead_reserved (h : s.caps.bufCap ≤ i) : bufRead i s = (0#8, s) := by
  simp [bufRead, h]

theorem bufRead_written (h : i < s.caps.bufCap) (hb : s.busy = false) {b : Byte}
    (hr : s.buf.read i = some b) : bufRead i s = (b, s) := by
  simp [bufRead, h, hb, hr]

theorem bufRead_unspecified (h : i < s.caps.bufCap)
    (hu : s.busy = true ∨ s.buf.read i = none) : bufRead i s = (s.drawnByte, s.afterDraw) := by
  cases hb : s.busy with
  | true => simp [bufRead, h, hb]
  | false =>
    have hr : s.buf.read i = none := hu.resolve_left (by simp [hb])
    simp [bufRead, h, hb, hr]

/-- Settles O52, by the three cases of a read of a BUF byte. -/
theorem bufferReads : Obligations.BufferReads := by
  intro s off i n hoff
  rw [hostStmt_r8_of_toNat hoff]
  refine ⟨fun hres => ?_, fun hi hb b hr => ?_, fun hi hu => ?_⟩
  · rw [bufRead_reserved hres]; rfl
  · rw [bufRead_written hi hb hr]
  · rw [bufRead_unspecified hi hu]; rfl

/-! ## What a host read can do (20_memory.md R66) -/

/-- A read of BUF leaves the state alone or draws one free value. -/
theorem bufRead_state (i : Nat) (s : State) :
    (bufRead i s).2 = s ∨ (bufRead i s).2 = s.afterDraw := by
  rcases Nat.lt_or_ge i s.caps.bufCap with hi | hres
  · by_cases hu : s.busy = true ∨ s.buf.read i = none
    · rw [bufRead_unspecified hi hu]; exact .inr rfl
    · obtain ⟨hb, hr⟩ := not_or.mp hu
      obtain ⟨b, hr⟩ := Option.ne_none_iff_exists'.mp hr
      rw [bufRead_written hi (Bool.eq_false_iff.mpr hb) hr]; exact .inl rfl
  · rw [bufRead_reserved hres]; exact .inl rfl

/-- A host read that goes on writes its temporary, after at most one draw. -/
theorem hostStmt_read_next {width : Nat} (h : hostStmt (.read width off n) s = .next t) :
    ∃ u v, (u = s ∨ u = s.afterDraw) ∧ t = u.setTemp n v := by
  simp only [hostStmt, hostRead] at h
  split_ifs at h
  · cases h; exact ⟨s, _, .inl rfl, rfl⟩
  · cases h; exact ⟨_, _, bufRead_state _ s, rfl⟩

/-- Settles O55: with or without a draw, a read's one other effect is the write of its temporary. -/
theorem hostReadsHaveNoSideEffect : Obligations.HostReadsHaveNoSideEffect := by
  intro s t width off n h
  obtain ⟨u, v, rfl | rfl, rfl⟩ := hostStmt_read_next h
  · exact ⟨v, rfl, u.temp_setTemp_same n v, fun m hm => u.temp_setTemp_other v hm⟩
  · exact ⟨v, rfl, s.afterDraw.temp_setTemp_same n v,
      fun m hm => s.afterDraw.temp_setTemp_other v hm⟩

/-! ## Accesses that the port does not support (20_memory.md R63) -/

/-- Settles O53: such an access is neither a register access nor a BUF access. -/
theorem unsupportedAccessesFault : Obligations.UnsupportedAccessesFault := by
  intro s width off v n hreg hbuf
  have hr : isRegAccess width off = false := decide_eq_false hreg
  have hb : isBufAccess width off = false := decide_eq_false hbuf
  constructor
  · simp [hostStmt, hostWrite, hr, hb]
  · simp [hostStmt, hostRead, hr, hb]

end Sys2Proof.Machine
end

section
/-! PROOFS. The encoding (spec/30_encoding.md R81 to R85, R88, R89, R94). In each format a word is the concatenation of
its fields and of nothing else, so a word decodes to an instruction exactly when it is that instruction's word and the
instruction is well-formed. -/

namespace Sys2Proof

variable {w : Word} {i : Instr}

/-! ## A word and its fields -/

/-- A part of a word is a concatenation exactly when its upper and its lower part are the two sides. -/
theorem append_eq_extractLsb'_iff {m n s : Nat} {x : BitVec m} {y : BitVec n} :
    x ++ y = w.extractLsb' s (m + n) ↔ x = w.extractLsb' (s + n) m ∧ y = w.extractLsb' s n := by
  rw [← BitVec.extractLsb'_append_extractLsb'_eq_extractLsb' rfl]
  constructor
  · intro h
    have hx := congrArg (BitVec.extractLsb' n m) h
    have hy := congrArg (BitVec.extractLsb' 0 n) h
    simp only [BitVec.extractLsb'_append_eq_left, BitVec.extractLsb'_append_eq_right] at hx hy
    exact ⟨hx, hy⟩
  · rintro ⟨rfl, rfl⟩
    rfl

/-- A bit is the part of one bit at its place. -/
theorem extractLsb'_eq_ofBool_iff {n : Nat} {b : Bool} :
    w.extractLsb' n 1 = BitVec.ofBool b ↔ w.getLsbD n = b := by
  rw [BitVec.getLsbD_eq_extractLsb']
  generalize w.extractLsb' n 1 = x
  revert x b
  decide

/-- Format N (R85). -/
theorem formatN_eq_iff {op : BitVec 4} {rest : BitVec 28} :
    op ++ rest = w ↔ opField w = op ∧ w.extractLsb' 0 28 = rest := by
  conv_lhs => rw [← BitVec.extractLsb'_eq_self (x := w)]
  rw [append_eq_extractLsb'_iff]
  simp only [@eq_comm _ _ (w.extractLsb' _ _)]
  exact Iff.rfl

/-- Format S (R82). -/
theorem formatS_eq_iff {op : BitVec 4} {pec a10 : Bool} {addr : BitVec 10} {b1 b0 : BitVec 8} :
    op ++ BitVec.ofBool pec ++ BitVec.ofBool a10 ++ addr ++ b1 ++ b0 = w ↔
      opField w = op ∧ pecField w = pec ∧ a10Field w = a10 ∧ addrField w = addr ∧
        byte1Field w = b1 ∧ byte0Field w = b0 := by
  conv_lhs => rw [← BitVec.extractLsb'_eq_self (x := w)]
  iterate 5 rw [append_eq_extractLsb'_iff]
  simp only [and_assoc, @eq_comm _ _ (w.extractLsb' _ _), extractLsb'_eq_ofBool_iff]
  exact Iff.rfl

/-- Format U (R83). -/
theorem formatU_eq_iff {op : BitVec 4} {rest : BitVec 12} {b1 b0 : BitVec 8} :
    op ++ rest ++ b1 ++ b0 = w ↔
      opField w = op ∧ w.extractLsb' 16 12 = rest ∧ byte1Field w = b1 ∧ byte0Field w = b0 := by
  conv_lhs => rw [← BitVec.extractLsb'_eq_self (x := w)]
  iterate 3 rw [append_eq_extractLsb'_iff]
  simp only [and_assoc, @eq_comm _ _ (w.extractLsb' _ _)]
  exact Iff.rfl

/-- Format B (R84). -/
theorem formatB_eq_iff {op rest : BitVec 4} {b2 b1 b0 : BitVec 8} :
    op ++ rest ++ b2 ++ b1 ++ b0 = w ↔
      opField w = op ∧ w.extractLsb' 24 4 = rest ∧ byte2Field w = b2 ∧ byte1Field w = b1 ∧
        byte0Field w = b0 := by
  conv_lhs => rw [← BitVec.extractLsb'_eq_self (x := w)]
  iterate 4 rw [append_eq_extractLsb'_iff]
  simp only [and_assoc, @eq_comm _ _ (w.extractLsb' _ _)]
  exact Iff.rfl

/-- The reserved opcodes 0xA and 0xB (R89). -/
theorem formatAB_eq_iff {top : BitVec 3} {body : BitVec 29} :
    top ++ body = w ↔ w.extractLsb' 29 3 = top ∧ w.extractLsb' 0 29 = body := by
  conv_lhs => rw [← BitVec.extractLsb'_eq_self (x := w)]
  rw [append_eq_extractLsb'_iff]
  simp only [@eq_comm _ _ (w.extractLsb' _ _)]

/-- The reserved opcodes 0xC to 0xF (R89). -/
theorem formatCF_eq_iff {top : BitVec 2} {body : BitVec 30} :
    top ++ body = w ↔ w.extractLsb' 30 2 = top ∧ w.extractLsb' 0 30 = body := by
  conv_lhs => rw [← BitVec.extractLsb'_eq_self (x := w)]
  rw [append_eq_extractLsb'_iff]
  simp only [@eq_comm _ _ (w.extractLsb' _ _)]

/-! ## OP and the upper bits of a word -/

/-- The upper bits of a word are the upper bits of OP. -/
theorem extractLsb'_opField {s n : Nat} (h : s + n ≤ 4) :
    (opField w).extractLsb' s n = w.extractLsb' (28 + s) n := by
  refine BitVec.eq_of_getLsbD_eq fun j hj => ?_
  have hj4 : s + j < 4 := by omega
  simp [opField, hj, hj4, Nat.add_assoc]

/-- The words of the row RESERVED_A_B (R89). -/
theorem top_eq_AB_iff : w.extractLsb' 29 3 = 0b101#3 ↔ opField w = 0xA#4 ∨ opField w = 0xB#4 := by
  rw [← extractLsb'_opField (s := 1) (by decide)]
  generalize opField w = op
  revert op
  decide

/-- The words of the row RESERVED_C_F (R89) are the other words above OP 0x9. -/
theorem top_eq_CF_iff :
    w.extractLsb' 30 2 = 0b11#2 ↔ 0xA#4 ≤ opField w ∧ w.extractLsb' 29 3 ≠ 0b101#3 := by
  rw [← extractLsb'_opField (s := 1) (by decide), ← extractLsb'_opField (s := 2) (by decide)]
  generalize opField w = op
  revert op
  decide

/-! ## The words that decode -/

/-- The word of a well-formed instruction has the fields that the decoder reads. -/
theorem decodes_of_encode_eq (hw : encode i = w) (h : i.wf = true) : Decodes w i := by
  cases i with
  | nop => obtain ⟨op, rest⟩ := formatN_eq_iff.mp hw; exact .nop op rest
  | reset => obtain ⟨op, rest⟩ := formatN_eq_iff.mp hw; exact .reset op rest
  | queryCaps => obtain ⟨op, rest⟩ := formatN_eq_iff.mp hw; exact .queryCaps op rest
  | startW pec a10 addr wlen =>
    obtain ⟨op, rfl, rfl, rfl, rfl, rlen⟩ := formatS_eq_iff.mp hw
    exact .startW op rlen h
  | startR pec a10 addr rlen =>
    obtain ⟨op, rfl, rfl, rfl, wlen, rfl⟩ := formatS_eq_iff.mp hw
    exact .startR op wlen h
  | startWR pec a10 addr wlen rlen =>
    obtain ⟨op, rfl, rfl, rfl, rfl, rfl⟩ := formatS_eq_iff.mp hw
    exact .startWR op h
  | crcUpdate prev data =>
    obtain ⟨op, rest, rfl, rfl⟩ := formatU_eq_iff.mp hw
    exact .crcUpdate op rest
  | crcFinalize init off len =>
    obtain ⟨op, rest, rfl, rfl, rfl⟩ := formatB_eq_iff.mp hw
    exact .crcFinalize op rest
  | crcVerify expect off len =>
    obtain ⟨op, rest, rfl, rfl, rfl⟩ := formatB_eq_iff.mp hw
    exact .crcVerify op rest
  | reserved9 body => obtain ⟨op, rfl⟩ := formatN_eq_iff.mp hw; exact .reserved9 op
  | reservedAB body => obtain ⟨top, rfl⟩ := formatAB_eq_iff.mp hw; exact .reservedAB top
  | reservedCF body =>
    obtain ⟨top, rfl⟩ := formatCF_eq_iff.mp hw
    obtain ⟨hop, hne⟩ := top_eq_CF_iff.mp top
    exact .reservedCF hop hne

/-- The fields that the decoder reads and the bits that it checks are all of the word. -/
theorem Decodes.encode_eq (h : Decodes w i) : encode i = w := by
  cases h with
  | nop op rest => exact formatN_eq_iff.mpr ⟨op, rest⟩
  | reset op rest => exact formatN_eq_iff.mpr ⟨op, rest⟩
  | queryCaps op rest => exact formatN_eq_iff.mpr ⟨op, rest⟩
  | startW op rlen addr => exact formatS_eq_iff.mpr ⟨op, rfl, rfl, rfl, rfl, rlen⟩
  | startR op wlen addr => exact formatS_eq_iff.mpr ⟨op, rfl, rfl, rfl, wlen, rfl⟩
  | startWR op addr => exact formatS_eq_iff.mpr ⟨op, rfl, rfl, rfl, rfl, rfl⟩
  | crcUpdate op rest => exact formatU_eq_iff.mpr ⟨op, rest, rfl, rfl⟩
  | crcFinalize op rest => exact formatB_eq_iff.mpr ⟨op, rest, rfl, rfl, rfl⟩
  | crcVerify op rest => exact formatB_eq_iff.mpr ⟨op, rest, rfl, rfl, rfl⟩
  | reserved9 op => exact formatN_eq_iff.mpr ⟨op, rfl⟩
  | reservedAB op => exact formatAB_eq_iff.mpr ⟨op, rfl⟩
  | reservedCF op top => exact formatCF_eq_iff.mpr ⟨top_eq_CF_iff.mpr ⟨op, top⟩, rfl⟩

/-- R88 (d) is the one check of an instruction, and the decoder makes it. -/
theorem Decodes.wf (h : Decodes w i) : i.wf = true := by
  cases h with
  | startW op rlen addr => exact addr
  | startR op wlen addr => exact addr
  | startWR op addr => exact addr
  | _ => rfl

/-- The decoder on the reserved opcodes above 0x9, the last two of its branches. -/
theorem decode_of_high (h : 0xA#4 ≤ opField w) :
    decode w = if w.extractLsb' 29 3 = 0b101#3 then .ok (.reservedAB (w.extractLsb' 0 29))
      else .ok (.reservedCF (w.extractLsb' 0 30)) := by
  have hne (k : BitVec 4) (hk : k < 0xA#4) : opField w ≠ k := by bv_omega
  simp [decode, hne]

/-- The converse of decode_ok. -/
theorem Decodes.decode_eq (h : Decodes w i) : decode w = .ok i := by
  cases h with
  | nop op rest => simp [decode, op, decodeN_ok, rest]
  | reset op rest => simp [decode, op, decodeN_ok, rest]
  | queryCaps op rest => simp [decode, op, decodeN_ok, rest]
  | startW op rlen addr => simp [decode, op, decodeStartW_ok, rlen, addr]
  | startR op wlen addr => simp [decode, op, decodeStartR_ok, wlen, addr]
  | startWR op addr => simp [decode, op, decodeStartWR_ok, addr]
  | crcUpdate op rest => simp [decode, op, decodeU_ok, rest]
  | crcFinalize op rest => simp [decode, op, decodeB_ok, rest]
  | crcVerify op rest => simp [decode, op, decodeB_ok, rest]
  | reserved9 op => simp [decode, op]
  | reservedAB top =>
    have hop : 0xA#4 ≤ opField w := by
      rcases top_eq_AB_iff.mp top with op | op <;> simp [op]
    rw [decode_of_high hop, if_pos top]
  | reservedCF op top => rw [decode_of_high op, if_neg top]

theorem decode_eq_ok_iff_decodes : decode w = .ok i ↔ Decodes w i :=
  ⟨decode_ok, Decodes.decode_eq⟩

/-- The decoder and the encoder are inverse to each other, and the decoder accepts well-formed
instructions alone. -/
theorem decode_eq_ok_iff : decode w = .ok i ↔ encode i = w ∧ i.wf = true :=
  decode_eq_ok_iff_decodes.trans ⟨fun h => ⟨h.encode_eq, h.wf⟩, fun ⟨hw, h⟩ => decodes_of_encode_eq hw h⟩

/-- Settles O2, by the fields of the instruction's word. -/
theorem decodeInvertsEncode : Obligations.DecodeInvertsEncode :=
  fun _ h => decode_eq_ok_iff.mpr ⟨rfl, h⟩

/-- Settles O3: what the decoder reads and checks is all of the word. -/
theorem encodeInvertsDecode : Obligations.EncodeInvertsDecode :=
  fun _ _ h => decode_eq_ok_iff.mp h

end Sys2Proof
end

section
/-! PROOFS. The words that the decoder accepts (spec/30_encoding.md R88, R89, R94) and the rows of the opcode table. -/

namespace Sys2Proof

open Sys2Proof.Machine

variable {w : Word} {i : Instr}

/-! ## R88 by format -/

theorem wordWellFormed_formatN (op : (opField w).toNat ≤ 2) :
    wordWellFormed w = true ↔ w.extractLsb' 0 28 = 0#28 := by
  have h3 : opField w ≠ 3#4 := by bv_omega
  have h4 : opField w ≠ 4#4 := by bv_omega
  have h8 : (opField w).toNat ≤ 8 := by omega
  have h35 : ¬ (3 ≤ (opField w).toNat ∧ (opField w).toNat ≤ 5) := by omega
  simp [wordWellFormed, reservedBitsClear, startWReadLenZero, startRWriteLenZero, startAddrFits, op,
    h3, h4, h8, h35]

theorem wordWellFormed_startW (op : opField w = 3#4) :
    wordWellFormed w = true ↔ byte0Field w = 0#8 ∧ addrFits (a10Field w) (addrField w) = true := by
  simp [wordWellFormed, reservedBitsClear, startWReadLenZero, startRWriteLenZero, startAddrFits, op,
    byte0Field, a10Field, addrField]

theorem wordWellFormed_startR (op : opField w = 4#4) :
    wordWellFormed w = true ↔ byte1Field w = 0#8 ∧ addrFits (a10Field w) (addrField w) = true := by
  simp [wordWellFormed, reservedBitsClear, startWReadLenZero, startRWriteLenZero, startAddrFits, op,
    byte1Field, a10Field, addrField]

theorem wordWellFormed_startWR (op : opField w = 5#4) :
    wordWellFormed w = true ↔ addrFits (a10Field w) (addrField w) = true := by
  simp [wordWellFormed, reservedBitsClear, startWReadLenZero, startRWriteLenZero, startAddrFits, op,
    a10Field, addrField]

theorem wordWellFormed_formatU (op : opField w = 6#4) :
    wordWellFormed w = true ↔ w.extractLsb' 16 12 = 0#12 := by
  simp [wordWellFormed, reservedBitsClear, startWReadLenZero, startRWriteLenZero, startAddrFits, op]

theorem wordWellFormed_formatB (op : opField w = 7#4 ∨ opField w = 8#4) :
    wordWellFormed w = true ↔ w.extractLsb' 24 4 = 0#4 := by
  rcases op with op | op <;>
    simp [wordWellFormed, reservedBitsClear, startWReadLenZero, startRWriteLenZero, startAddrFits, op]

theorem opField_le_of_wordWellFormed (h : wordWellFormed w = true) : (opField w).toNat ≤ 8 := by
  simp only [wordWellFormed, Bool.and_eq_true, decide_eq_true_eq] at h
  obtain ⟨⟨⟨⟨hop, -⟩, -⟩, -⟩, -⟩ := h
  exact hop

/-! ## The commands and the reserved opcodes -/

/-- An opcode 0x0 to 0x8 is one of the nine commands'. -/
theorem opcode_cases_of_le {op : BitVec 4} (h : op.toNat ≤ 8) :
    op = 0#4 ∨ op = 1#4 ∨ op = 2#4 ∨ op = 3#4 ∨ op = 4#4 ∨ op = 5#4 ∨ op = 6#4 ∨ op = 7#4 ∨
      op = 8#4 := by
  bv_omega

/-- A command that decodes passes the checks of R88. -/
theorem wordWellFormed_of_decodes (h : Decodes w i) (hc : isCommand i = true) :
    wordWellFormed w = true := by
  cases h with
  | nop op rest => exact (wordWellFormed_formatN (by simp [op])).mpr rest
  | reset op rest => exact (wordWellFormed_formatN (by simp [op])).mpr rest
  | queryCaps op rest => exact (wordWellFormed_formatN (by simp [op])).mpr rest
  | startW op rlen addr => exact (wordWellFormed_startW op).mpr ⟨rlen, addr⟩
  | startR op wlen addr => exact (wordWellFormed_startR op).mpr ⟨wlen, addr⟩
  | startWR op addr => exact (wordWellFormed_startWR op).mpr addr
  | crcUpdate op rest => exact (wordWellFormed_formatU op).mpr rest
  | crcFinalize op rest => exact (wordWellFormed_formatB (.inl op)).mpr rest
  | crcVerify op rest => exact (wordWellFormed_formatB (.inr op)).mpr rest
  | reserved9 op => simp [isCommand] at hc
  | reservedAB top => simp [isCommand] at hc
  | reservedCF op top => simp [isCommand] at hc

/-- A word that passes the checks of R88 decodes to the command of its opcode. -/
theorem exists_decodes_of_wordWellFormed (h : wordWellFormed w = true) :
    ∃ i, Decodes w i ∧ isCommand i = true := by
  rcases opcode_cases_of_le (opField_le_of_wordWellFormed h) with
    op | op | op | op | op | op | op | op | op
  · exact ⟨_, .nop op ((wordWellFormed_formatN (by simp [op])).mp h), rfl⟩
  · exact ⟨_, .reset op ((wordWellFormed_formatN (by simp [op])).mp h), rfl⟩
  · exact ⟨_, .queryCaps op ((wordWellFormed_formatN (by simp [op])).mp h), rfl⟩
  · obtain ⟨rlen, addr⟩ := (wordWellFormed_startW op).mp h
    exact ⟨_, .startW op rlen addr, rfl⟩
  · obtain ⟨wlen, addr⟩ := (wordWellFormed_startR op).mp h
    exact ⟨_, .startR op wlen addr, rfl⟩
  · exact ⟨_, .startWR op ((wordWellFormed_startWR op).mp h), rfl⟩
  · exact ⟨_, .crcUpdate op ((wordWellFormed_formatU op).mp h), rfl⟩
  · exact ⟨_, .crcFinalize op ((wordWellFormed_formatB (.inl op)).mp h), rfl⟩
  · exact ⟨_, .crcVerify op ((wordWellFormed_formatB (.inr op)).mp h), rfl⟩

/-- A word that decodes to a reserved row has a reserved opcode. -/
theorem opField_ge_of_decodes (h : Decodes w i) (hc : isCommand i = false) : 9 ≤ (opField w).toNat := by
  cases h with
  | reserved9 op => simp [op]
  | reservedAB top => rcases top_eq_AB_iff.mp top with op | op <;> simp [op]
  | reservedCF op top => bv_omega
  | _ => simp [isCommand] at hc

/-- A word with a reserved opcode decodes to its row, whatever the body (R89). -/
theorem exists_decodes_of_opField_ge (h : 9 ≤ (opField w).toNat) :
    ∃ i, Decodes w i ∧ isCommand i = false := by
  by_cases op : opField w = 0x9#4
  · exact ⟨_, .reserved9 op, rfl⟩
  · by_cases top : w.extractLsb' 29 3 = 0b101#3
    · exact ⟨_, .reservedAB top, rfl⟩
    · exact ⟨_, .reservedCF (by bv_omega) top, rfl⟩

/-- Settles O4, by the format of each opcode; a word that decodes is either a well-formed command's or has a reserved
opcode, so every other word is rejected. -/
theorem decoderAcceptsExactlyWellFormedWords : Obligations.DecoderAcceptsExactlyWellFormedWords := by
  intro w
  simp only [decode_eq_ok_iff_decodes]
  refine ⟨⟨exists_decodes_of_wordWellFormed, fun ⟨i, hi, hc⟩ => wordWellFormed_of_decodes hi hc⟩,
    ⟨exists_decodes_of_opField_ge, fun ⟨i, hi, hc⟩ => opField_ge_of_decodes hi hc⟩, fun hop hw => ?_⟩
  cases hd : decode w with
  | error e => exact ⟨e, rfl⟩
  | ok i =>
    cases hc : isCommand i with
    | true => simp [wordWellFormed_of_decodes (decode_ok hd) hc] at hw
    | false => exact absurd (opField_ge_of_decodes (decode_ok hd) hc) (by omega)

/-! ## The rows of the opcode table -/

/-- Two rows that cover a word agree where both fix a bit. -/
theorem OpcodeRow.pattern_agree {r r' : OpcodeRow} (h : r.covers w = true) (h' : r'.covers w = true) :
    r.pattern &&& r'.mask = r'.pattern &&& r.mask := by
  simp only [OpcodeRow.covers, beq_iff_eq] at h h'
  rw [← h, ← h', BitVec.and_assoc, BitVec.and_assoc, BitVec.and_comm r.mask]

/-- Two different rows of the table fix a bit to different values. -/
theorem opcodeTable_patterns_differ :
    ∀ r ∈ opcodeTable, ∀ r' ∈ opcodeTable,
      r.pattern &&& r'.mask = r'.pattern &&& r.mask → r = r' := by
  decide

/-- The table has the row of every instruction: a row does not look at the operands. -/
theorem row_mem_opcodeTable (i : Instr) : i.row ∈ opcodeTable := by
  cases i <;> simp [opcodeTable, Instr.row]

/-- The word of an instruction lies in its row. -/
theorem row_covers_encode : ∀ i : Instr, i.row.covers (encode i) = true
  | .nop => Laws.EncodeInRow.nop
  | .reset => Laws.EncodeInRow.reset
  | .queryCaps => Laws.EncodeInRow.queryCaps
  | .startW pec a10 addr wlen => Laws.EncodeInRow.startW pec a10 addr wlen
  | .startR pec a10 addr rlen => Laws.EncodeInRow.startR pec a10 addr rlen
  | .startWR pec a10 addr wlen rlen => Laws.EncodeInRow.startWR pec a10 addr wlen rlen
  | .crcUpdate prev data => Laws.EncodeInRow.crcUpdate prev data
  | .crcFinalize init off len => Laws.EncodeInRow.crcFinalize init off len
  | .crcVerify expect off len => Laws.EncodeInRow.crcVerify expect off len
  | .reserved9 body => Laws.EncodeInRow.reserved9 body
  | .reservedAB body => Laws.EncodeInRow.reservedAB body
  | .reservedCF body => Laws.EncodeInRow.reservedCF body

/-- Settles O5: any two rows fix some bit differently, and a word that decodes is the word of its instruction. -/
theorem opcodeRowsAreDisjoint : Obligations.OpcodeRowsAreDisjoint := by
  refine ⟨fun w r hr r' hr' h h' => ?_, fun w i hd => ⟨row_mem_opcodeTable i, ?_⟩⟩
  · exact opcodeTable_patterns_differ r hr r' hr' (OpcodeRow.pattern_agree h h')
  · rw [← (decode_ok hd).encode_eq]
    exact row_covers_encode i

/-- Settles O1: the decoder evaluated on each word. -/
theorem writtenOutWordsDecode : Obligations.WrittenOutWordsDecode :=
  ⟨rfl, rfl, rfl, rfl, rfl, rfl, rfl, rfl, rfl, rfl, rfl, rfl⟩

end Sys2Proof
end

section
/-! PROOFS. The operands of the START commands and the reserved opcodes (spec/30_encoding.md R86, R88, R89), and the
control flow of the host program (R93). -/

namespace Sys2Proof.Machine

/-! ## Addresses -/

/-- A concatenation as a number. -/
theorem toNat_append_eq {m n : Nat} (x : BitVec m) (y : BitVec n) :
    (x ++ y).toNat = 2 ^ n * x.toNat + y.toNat := by
  rw [BitVec.toNat_append, ← Nat.shiftLeft_add_eq_or_of_lt y.isLt, Nat.shiftLeft_eq, Nat.mul_comm]

/-- Settles O6, by the parts of each byte as numbers. -/
theorem addressBytesFormat : Obligations.AddressBytesFormat := by
  intro addr b
  refine ⟨⟨_, rfl, ?_⟩, _, _, rfl, ?_, ?_⟩
  · rw [toNat_append_eq, BitVec.extractLsb'_toNat, Nat.shiftRight_zero]
    rfl
  · have hA : addr.toNat / 256 < 4 := by omega
    have hhigh : (addr.extractLsb' 8 2).toNat = addr.toNat / 256 := by
      simpa [BitVec.extractLsb'_toNat, Nat.shiftRight_eq_div_pow] using hA
    rw [toNat_append_eq, toNat_append_eq, hhigh]
    simp only [BitVec.toNat_ofNat]
    omega
  · rw [BitVec.extractLsb'_toNat, Nat.shiftRight_zero]

/-- With A10 = 0 an address fits exactly when it has 7 bits (R88 (d)). -/
theorem addrFits_seven_bits_iff {addr : BitVec 10} : addrFits false addr = true ↔ addr.toNat < 128 := by
  have hA : addr.toNat / 128 < 8 := by omega
  have hhigh : (addr.extractLsb' 7 3).toNat = addr.toNat / 128 := by
    simpa [BitVec.extractLsb'_toNat, Nat.shiftRight_eq_div_pow] using hA
  simp only [addrFits, Bool.false_or, beq_iff_eq, BitVec.toNat_eq, hhigh, BitVec.toNat_ofNat]
  omega

/-- Settles O14: each reserved opcode's rule is IllegalCommand, as is that of a START whose address does not fit. -/
theorem reservedOpcodesAreIllegal : Obligations.ReservedOpcodesAreIllegal := by
  intro s
  refine ⟨fun _ => rfl, fun _ => rfl, fun _ => rfl, fun i q hq ha10 haddr => ?_⟩
  have hfit : addrFits q.a10 q.addr = false := by
    rw [ha10, ← Bool.not_eq_true, addrFits_seven_bits_iff]
    omega
  exact exec_start_illegal hq hfit s

/-! ## The host program -/

/-- Settles O56, by the two outcomes of the comparison. -/
theorem hostControlFlow : Obligations.HostControlFlow := by
  intro s t hi lo v target
  refine ⟨rfl, rfl, fun heq => ⟨?_, ?_⟩, fun hne => ⟨?_, ?_⟩, fun l => rfl⟩
  · simp [hostStmt, bitsOf, heq, State.setHostPc]
  · simp [hostStmt, bitsOf, heq]
  · simp [hostStmt, bitsOf, hne]
  · simp [hostStmt, bitsOf, hne, State.setHostPc]

end Sys2Proof.Machine
end

section
/-! PROOFS. The CRC-8 function (spec/40_checksum.md R110 to R112, R117). A round is linear over GF(2), loses no
information, and multiplies by x modulo g(x); eight rounds inherit each of the three by induction, and a list folds
them. -/

namespace Sys2Proof.Machine

open Polynomial

theorem getLsbD_shiftLeft_one_succ {n i : Nat} (v : BitVec n) (h : i + 1 < n) :
    (v <<< 1).getLsbD (i + 1) = v.getLsbD i := by
  rw [BitVec.getLsbD_shiftLeft, decide_eq_true h]
  simp

/-! ## A round is linear -/

/-- A round as one XOR: the byte shifted, and 0x07 when bit 7 falls out (R110). -/
theorem crcRound_eq_xor (c : Byte) :
    crcRound c = c <<< 1 ^^^ if c.getLsbD 7 then 0x07#8 else 0#8 := by
  unfold crcRound
  split <;> simp

theorem crcRound_xor (c d : Byte) : crcRound (c ^^^ d) = crcRound c ^^^ crcRound d := by
  have hfeedback : (if (c ^^^ d).getLsbD 7 then 0x07#8 else 0#8) =
      (if c.getLsbD 7 then 0x07#8 else 0#8) ^^^ if d.getLsbD 7 then 0x07#8 else 0#8 := by
    rw [BitVec.getLsbD_xor]
    cases c.getLsbD 7 <;> cases d.getLsbD 7 <;> rfl
  rw [crcRound_eq_xor, hfeedback, BitVec.shiftLeft_xor_distrib, crcRound_eq_xor c, crcRound_eq_xor d]
  ac_rfl

theorem crcRounds_xor (n : Nat) (c d : Byte) :
    crcRounds n (c ^^^ d) = crcRounds n c ^^^ crcRounds n d := by
  induction n generalizing c d with
  | zero => rfl
  | succ n ih => rw [crcRounds, crcRound_xor, ih]; rfl

theorem crcRounds_zero (n : Nat) : crcRounds n 0x00#8 = 0x00#8 := by
  simpa using crcRounds_xor n 0x00#8 0x00#8

/-- Settles O21: crc8_update is eight rounds on prev XOR data, and rounds are linear. -/
theorem crcUpdateIsLinear : Obligations.CrcUpdateIsLinear := by
  refine ⟨fun prev data => ?_, fun a b d e => ?_, crcRounds_zero 8⟩
  · rw [crc8Update, crc8Update, BitVec.zero_xor]
  · have hregroup : a ^^^ b ^^^ (d ^^^ e) = (a ^^^ d) ^^^ (b ^^^ e) := by ac_rfl
    rw [crc8Update, hregroup, crcRounds_xor]
    rfl

/-! ## A round multiplies by x modulo g(x) -/

theorem toPoly_xor {n : Nat} (v w : BitVec n) : toPoly (v ^^^ w) = toPoly v + toPoly w := by
  simp only [toPoly, ← Finset.sum_add_distrib]
  refine Finset.sum_congr rfl fun i _ => ?_
  rw [BitVec.getLsbD_xor]
  cases v.getLsbD i <;> cases w.getLsbD i <;> simp [CharTwo.add_self_eq_zero]

theorem degree_toPoly_lt {n : Nat} (v : BitVec n) : (toPoly v).degree < n := by
  refine (degree_sum_le _ _).trans_lt ((Finset.sup_lt_iff (WithBot.bot_lt_coe n)).mpr fun i hi => ?_)
  split
  · exact (degree_X_pow_le i).trans_lt (Nat.cast_lt.mpr (Finset.mem_range.mp hi))
  · exact degree_zero.trans_lt (WithBot.bot_lt_coe n)

/-- A shift multiplies by x, but for the bit that falls out. -/
theorem toPoly_mul_X {n : Nat} (v : BitVec (n + 1)) :
    toPoly v * X = toPoly (v <<< 1) + if v.getLsbD n then X ^ (n + 1) else 0 := by
  rw [toPoly, toPoly, Finset.sum_range_succ, Finset.sum_range_succ', add_mul, Finset.sum_mul]
  congr 1
  · rw [show (v <<< 1).getLsbD 0 = false by simp, if_neg Bool.false_ne_true, add_zero]
    refine Finset.sum_congr rfl fun i hi => ?_
    rw [getLsbD_shiftLeft_one_succ v (Nat.succ_lt_succ (Finset.mem_range.mp hi)), ite_mul, zero_mul,
      pow_succ]
  · rw [ite_mul, zero_mul, pow_succ]

/-- g(x) is x^8 and the polynomial of 0x07 (R110). -/
theorem crcPoly_eq : crcPoly = X ^ 8 + toPoly 0x07#8 := by
  have hlow : toPoly 0x07#8 = 1 + X + X ^ 2 := by simp [toPoly, Finset.sum_range_succ]
  rw [crcPoly, hlow]
  ring

theorem crcPoly_monic : crcPoly.Monic := by
  rw [crcPoly_eq]
  exact monic_X_pow_add (degree_toPoly_lt _)

theorem degree_crcPoly : crcPoly.degree = 8 := by
  rw [crcPoly_eq, degree_add_eq_left_of_degree_lt] <;> rw [degree_X_pow]
  · rfl
  · exact degree_toPoly_lt _

theorem crcPoly_dvd_crcRound (c : Byte) : crcPoly ∣ toPoly c * X - toPoly (crcRound c) := by
  rw [toPoly_mul_X, crcRound_eq_xor, toPoly_xor, add_sub_add_left_eq_sub]
  split
  · rw [CharTwo.sub_eq_add, ← crcPoly_eq]
  · simp [toPoly]

theorem crcPoly_dvd_crcRounds (n : Nat) (c : Byte) :
    crcPoly ∣ toPoly c * X ^ n - toPoly (crcRounds n c) := by
  induction n generalizing c with
  | zero => simp [crcRounds]
  | succ n ih =>
    have hfirst : crcPoly ∣ (toPoly c * X - toPoly (crcRound c)) * X ^ n :=
      (crcPoly_dvd_crcRound c).mul_right _
    have hsplit : toPoly c * X ^ (n + 1) - toPoly (crcRounds n (crcRound c)) =
        (toPoly c * X - toPoly (crcRound c)) * X ^ n +
          (toPoly (crcRound c) * X ^ n - toPoly (crcRounds n (crcRound c))) := by
      ring
    rw [crcRounds, hsplit]
    exact hfirst.add (ih _)

/-- Settles O22: eight rounds multiply by x^8 modulo g(x), and a byte's polynomial has a degree below g(x)'s. -/
theorem crcIsPolynomialRemainder : Obligations.CrcIsPolynomialRemainder := by
  intro prev data
  have hdegree : (toPoly (crc8Update prev data)).degree < crcPoly.degree :=
    degree_crcPoly ▸ degree_toPoly_lt _
  calc toPoly (crc8Update prev data)
      = toPoly (crc8Update prev data) %ₘ crcPoly :=
        ((modByMonic_eq_self_iff crcPoly_monic).mpr hdegree).symm
    _ = (toPoly (prev ^^^ data) * X ^ 8) %ₘ crcPoly :=
        (modByMonic_eq_of_dvd_sub crcPoly_monic (crcPoly_dvd_crcRounds 8 _)).symm

/-! ## A round loses no information -/

/-- The bit that falls out of the shift comes back as bit 0, since 0x07 is odd. -/
theorem crcRound_getLsbD_zero (c : Byte) : (crcRound c).getLsbD 0 = c.getLsbD 7 := by
  rw [crcRound_eq_xor, BitVec.getLsbD_xor]
  cases c.getLsbD 7 <;> simp

theorem crcRound_injective : Function.Injective crcRound := by
  intro c d h
  have h7 : c.getLsbD 7 = d.getLsbD 7 := by
    rw [← crcRound_getLsbD_zero, ← crcRound_getLsbD_zero, h]
  have hshift : c <<< 1 = d <<< 1 := by
    rwa [crcRound_eq_xor, crcRound_eq_xor, h7, BitVec.xor_left_inj] at h
  refine BitVec.eq_of_getLsbD_eq fun i hi => ?_
  by_cases htop : i = 7
  · rw [htop, h7]
  · have hlow : i + 1 < 8 := by omega
    rw [← getLsbD_shiftLeft_one_succ c hlow, hshift, getLsbD_shiftLeft_one_succ d hlow]

theorem crcRounds_injective (n : Nat) : Function.Injective (crcRounds n) := by
  induction n with
  | zero => exact fun _ _ h => h
  | succ n ih => exact fun _ _ h => crcRound_injective (ih h)

theorem crc8Update_left_injective (data : Byte) : Function.Injective (crc8Update · data) :=
  fun _ _ h => (BitVec.xor_left_inj _).mp (crcRounds_injective 8 h)

theorem crc8Update_injective (prev : Byte) : Function.Injective (crc8Update prev) :=
  fun _ _ h => (BitVec.xor_right_inj _).mp (crcRounds_injective 8 h)

/-! ## The checksum of a list -/

theorem crc8_append (c : Byte) (l l' : List Byte) : crc8 c (l ++ l') = crc8 (crc8 c l) l' := by
  induction l generalizing c with
  | nil => rfl
  | cons b l ih => exact ih _

theorem crc8_left_injective (l : List Byte) : Function.Injective (crc8 · l) := by
  induction l with
  | nil => exact fun _ _ h => h
  | cons b l ih => exact fun _ _ h => crc8Update_left_injective b (ih h)

@[simp] theorem crc8Update_self (c : Byte) : crc8Update c c = 0x00#8 := by
  rw [crc8Update, BitVec.xor_self, crcRounds_zero]

/-- Settles O23: a checksum folded into itself is 0. -/
theorem crcResidueAndConcatenation : Obligations.CrcResidueAndConcatenation := by
  intro c l l'
  refine ⟨rfl, ?_, crc8_append c l l'⟩
  rw [crc8_append]
  exact crc8Update_self _

/-- Settles O24: the byte, and then the rest of the list, are folded without loss. -/
theorem crcDetectsOneCorruptedByte : Obligations.CrcDetectsOneCorruptedByte := by
  intro c b b' l l' hne heq
  rw [crc8_append, crc8_append] at heq
  exact hne (crc8Update_injective _ (crc8_left_injective l' heq))

/-- Settles O20, by evaluation. -/
theorem crcReferenceValues : Obligations.CrcReferenceValues := ⟨by decide +kernel, by decide⟩

end Sys2Proof.Machine
end

section
/-! PROOFS. The CRC commands (spec/40_checksum.md R113 to R115) and the frame of all commands: the acceptance of a
word (spec/43_facade.md R191, R203), a run of BUF that can be read and one that cannot, and what each command leaves
unchanged. -/

namespace Sys2Proof.Machine

variable {s t : State} {i : Instr} {w : Word}

/-! ## Acceptance of a word -/

theorem commandWrite_of_idle (idle : s.busy = false) : commandWrite w s = acceptCommand w s :=
  if_neg (Bool.eq_false_iff.mp idle)

/-- The word of a well-formed instruction runs the instruction (R191). -/
theorem commandWrite_encode (idle : s.busy = false) (h : i.wf = true) :
    commandWrite (encode i) s = exec i { s with cmd := encode i, ovr := false } := by
  rw [commandWrite_of_idle idle, acceptCommand, decodeInvertsEncode i h]
  rfl

/-- A word with a command's opcode that fails R88 changes only CODE, beside its acceptance (R203). -/
theorem commandWrite_of_not_wordWellFormed (idle : s.busy = false) (op : (opField w).toNat ≤ 8)
    (h : wordWellFormed w = false) :
    commandWrite w s = .next { s with cmd := w, ovr := false, code := .illegalCommand } := by
  obtain ⟨-, -, hrejects⟩ := decoderAcceptsExactlyWellFormedWords w
  obtain ⟨e, he⟩ := hrejects op h
  rw [commandWrite_of_idle idle, acceptCommand, he]
  rfl

theorem commandWrite_formatU_illegal (idle : s.busy = false) (op : opField w = 0x6#4)
    (h : w.extractLsb' 16 12 ≠ 0#12) :
    commandWrite w s = .next { s with cmd := w, ovr := false, code := .illegalCommand } :=
  commandWrite_of_not_wordWellFormed idle (by simp [op])
    (Bool.eq_false_iff.mpr (mt (wordWellFormed_formatU op).mp h))

theorem commandWrite_formatB_illegal (idle : s.busy = false)
    (op : opField w = 0x7#4 ∨ opField w = 0x8#4) (h : w.extractLsb' 24 4 ≠ 0#4) :
    commandWrite w s = .next { s with cmd := w, ovr := false, code := .illegalCommand } :=
  commandWrite_of_not_wordWellFormed idle (by rcases op with op | op <;> simp [op])
    (Bool.eq_false_iff.mpr (mt (wordWellFormed_formatB op).mp h))

/-! ## CRC_UPDATE -/

theorem exec_crcUpdate (prev data : Byte) (s : State) :
    exec (.crcUpdate prev data) s = execCrcUpdate prev data s := rfl

/-- Settles O11: with and without the engine, and the two ways a word of its opcode is accepted. -/
theorem crcUpdateFoldsOneByte : Obligations.CrcUpdateFoldsOneByte := by
  intro s prev data
  refine ⟨fun engine => ?_, fun noEngine => ?_, fun idle => ⟨?_, fun w op h => ?_⟩, ?_, by decide⟩
  · rw [exec_crcUpdate, execCrcUpdate, if_neg (by simp [engine])]
    rfl
  · rw [exec_crcUpdate, execCrcUpdate, if_pos noEngine]
    rfl
  · exact commandWrite_encode (i := .crcUpdate prev data) idle rfl
  · exact commandWrite_formatU_illegal idle op h
  · exact crc8Update_self prev

/-! ## A run of BUF -/

theorem State.runFits_eq_true_iff {off len : BitVec 8} :
    s.runFits off len = true ↔ off.toNat + len.toNat ≤ s.caps.bufCap := decide_eq_true_iff

theorem State.runFits_eq_false_iff {off len : BitVec 8} :
    s.runFits off len = false ↔ s.caps.bufCap < off.toNat + len.toNat := by
  rw [← Bool.not_eq_true, State.runFits_eq_true_iff, Nat.not_le]

/-- A run that BUF holds reads as its bytes. -/
theorem State.memReadRun_of_holds {off n : Nat} {bs : List Byte} (fits : off + n ≤ s.caps.bufCap)
    (hlen : bs.length = n) (holds : s.buf.holds off bs) : s.memReadRun off n = .ok bs := by
  refine State.memReadRun_ok.mpr ⟨hlen, fun j b hj => State.memRead_ok.mpr ⟨?_, holds j b hj⟩⟩
  have hjlt : j < bs.length := (List.getElem?_eq_some_iff.mp hj).1
  omega

/-- A run with an unwritten byte faults at its first such byte. -/
theorem State.memReadRun_of_unwritten {off n j : Nat} (fits : off + n ≤ s.caps.bufCap) (hj : j < n)
    (before : ∀ i < j, s.buf.read (off + i) ≠ none) (unwritten : s.buf.read (off + j) = none) :
    s.memReadRun off n = .error (.unwrittenRead (off + j)) := by
  refine State.memReadRun_error.mpr ⟨j, hj, State.memRead_error.mpr (.inr ⟨by omega, unwritten, rfl⟩),
    fun i hi => ?_⟩
  obtain ⟨b, hb⟩ := Option.ne_none_iff_exists'.mp (before i hi)
  exact ⟨b, State.memRead_ok.mpr ⟨by omega, hb⟩⟩

section
variable {init : Byte} {off len : BitVec 8} {judge : Byte → Code}

/-- A run of bytes that BUF holds gives their checksum. -/
theorem crcRun_of_holds {bs : List Byte} (fits : off.toNat + len.toNat ≤ s.caps.bufCap)
    (engine : s.caps.hasPec = true) (hlen : bs.length = len.toNat)
    (holds : s.buf.holds off.toNat bs) :
    crcRun init off len judge s =
      .next { s with result := crc8 init bs, code := judge (crc8 init bs) } :=
  crcRun_reads (State.runFits_eq_true_iff.mpr fits) engine (State.memReadRun_of_holds fits hlen holds)

/-- A run with an unwritten byte stops at the first one (70_reset_and_hazards.md R251). -/
theorem crcRun_of_unwritten {j : Nat} (fits : off.toNat + len.toNat ≤ s.caps.bufCap)
    (engine : s.caps.hasPec = true) (hj : j < len.toNat)
    (before : ∀ i < j, s.buf.read (off.toNat + i) ≠ none)
    (unwritten : s.buf.read (off.toNat + j) = none) :
    crcRun init off len judge s = .fault (.unwrittenRead (off.toNat + j)) := by
  simp [crcRun, State.runBytes, State.runFits_eq_true_iff.mpr fits, engine,
    State.memReadRun_of_unwritten fits hj before unwritten]

end

/-- Settles O12: each outcome of a run from INIT, and the two ways a word of its opcode is accepted. -/
theorem crcFinalizeFoldsRun : Obligations.CrcFinalizeFoldsRun := by
  intro s init off len
  simp only [exec_crcFinalize]
  refine ⟨fun tooLong => ?_, fun fits noEngine => ?_, fun fits engine => ⟨fun bs hlen holds => ?_,
    fun j hj before unwritten => ?_⟩, fun idle => ⟨?_, fun w op h => ?_⟩⟩
  · exact crcRun_tooLong (State.runFits_eq_false_iff.mpr tooLong)
  · exact crcRun_noEngine (State.runFits_eq_true_iff.mpr fits) noEngine
  · exact crcRun_of_holds fits engine hlen holds
  · exact crcRun_of_unwritten fits engine hj before unwritten
  · exact commandWrite_encode (i := .crcFinalize init off len) idle rfl
  · exact commandWrite_formatB_illegal idle (.inl op) h

/-- Settles O13: as for CRC_FINALIZE, from 0x00 and with the comparison deciding CODE. -/
theorem crcVerifyComparesRun : Obligations.CrcVerifyComparesRun := by
  intro s expect off len
  simp only [exec_crcVerify]
  refine ⟨fun tooLong => ?_, fun fits noEngine => ?_, fun fits engine => ⟨fun bs hlen holds => ?_,
    fun j hj before unwritten => ?_⟩, fun idle => ⟨?_, fun w op h => ?_⟩⟩
  · exact crcRun_tooLong (State.runFits_eq_false_iff.mpr tooLong)
  · exact crcRun_noEngine (State.runFits_eq_true_iff.mpr fits) noEngine
  · rw [crcRun_of_holds fits engine hlen holds]
    exact ⟨fun heq => by rw [if_pos heq], fun hne => by rw [if_neg hne]⟩
  · exact crcRun_of_unwritten fits engine hj before unwritten
  · exact commandWrite_encode (i := .crcVerify expect off len) idle rfl
  · exact commandWrite_formatB_illegal idle (.inr op) h

/-! ## The frame of the commands -/

/-- A START leaves RESULT alone. -/
theorem result_eq_of_start {q : Request} (hq : startOf i = some q) (h : exec i s = .next t) :
    t.result = s.result := by
  cases ha : addrFits q.a10 q.addr with
  | false =>
    rw [exec_start_illegal hq ha] at h
    cases h; rfl
  | true =>
    rw [exec_start hq ha] at h
    rcases startRequest_cases q s with ⟨-, e⟩ | ⟨-, -, -, e⟩ | ⟨-, -, -, e⟩ | ⟨-, -, -, e⟩ <;>
      rw [e] at h <;> cases h <;> rfl

theorem counts_eq_of_crcRun {init : Byte} {off len : BitVec 8} {judge : Byte → Code}
    (h : crcRun init off len judge s = .next t) :
    t.acc = s.acc ∧ t.xferCount = s.xferCount ∧ t.rxCount = s.rxCount := by
  rcases crcRun_next h with ⟨c, rfl⟩ | ⟨v, c, -, rfl⟩ <;> exact ⟨rfl, rfl, rfl⟩

/-- A command other than a START and RESET leaves acc and the counts alone. -/
theorem counts_eq_of_not_start (hq : startOf i = none) (hi : i ≠ .reset) (h : exec i s = .next t) :
    t.acc = s.acc ∧ t.xferCount = s.xferCount ∧ t.rxCount = s.rxCount := by
  cases i with
  | reset => exact absurd rfl hi
  | startW _ _ _ _ | startR _ _ _ _ | startWR _ _ _ _ _ => cases hq
  | nop | queryCaps | reserved9 _ | reservedAB _ | reservedCF _ => cases h; exact ⟨rfl, rfl, rfl⟩
  | crcUpdate prev data =>
    rw [exec_crcUpdate, execCrcUpdate] at h
    split_ifs at h <;> cases h <;> exact ⟨rfl, rfl, rfl⟩
  | crcFinalize init off len => rw [exec_crcFinalize] at h; exact counts_eq_of_crcRun h
  | crcVerify expect off len => rw [exec_crcVerify] at h; exact counts_eq_of_crcRun h

/-- NOP, QUERY_CAPS and the reserved opcodes leave RESULT alone. -/
theorem result_eq_of_no_checksum (hi : i = .nop ∨ i = .queryCaps ∨ isCommand i = false)
    (h : exec i s = .next t) : t.result = s.result := by
  rcases hi with rfl | rfl | hi
  · cases h; rfl
  · cases h; rfl
  · cases i with
    | reserved9 _ | reservedAB _ | reservedCF _ => cases h; rfl
    | _ => cases hi

theorem ExecNext.environment_eq (hn : ExecNext i s t) :
    t.cmd = s.cmd ∧ t.ovr = s.ovr ∧ t.host = s.host ∧ t.buf = s.buf ∧ t.answers = s.answers ∧
      t.schedule = s.schedule ∧ t.draws = s.draws ∧ t.powerOn = s.powerOn := by
  cases hn <;> exact ⟨rfl, rfl, rfl, rfl, rfl, rfl, rfl, rfl⟩

theorem ExecNext.busLog_eq (hn : ExecNext i s t) (hi : i ≠ .reset) : t.busLog = s.busLog := by
  cases hn with
  | reset hreset => exact absurd hreset hi
  | _ => rfl

theorem ExecNext.sequencer_eq (hn : ExecNext i s t) (hq : startOf i = none) :
    t.busy = s.busy ∧ t.seq = s.seq := by
  cases hn with
  | latch q hstart | begin q hstart => rw [hq] at hstart; cases hstart
  | _ => exact ⟨rfl, rfl⟩

/-- Settles O18: what no command changes, by the inversion lemma of exec; the rest by the kind of command. -/
theorem commandFrame : Obligations.CommandFrame := by
  intro i s t h
  have hn : ExecNext i s t := exec_next h
  obtain ⟨hcmd, hovr, hhost, hbuf, hanswers, hschedule, hdraws, hpowerOn⟩ := hn.environment_eq
  refine ⟨hcmd, hovr, hn.caps_eq, hhost, fun a => by rw [hbuf], hanswers, hschedule, hdraws, hpowerOn,
    hn.busLog_eq, hn.sequencer_eq, fun hq hi => counts_eq_of_not_start hq hi h, fun hq => ?_,
    fun hi => result_eq_of_no_checksum hi h, fun hi => ?_⟩
  · obtain ⟨q, hstart⟩ := Option.ne_none_iff_exists'.mp hq
    exact result_eq_of_start hstart h
  · subst hi
    cases h; rfl

end Sys2Proof.Machine
end

section
/-! PROOFS. The segmenter (spec/41_segmenter.md R143, R144): where each chunk of a plan lies, which one is final, the
two parts of a plan, and the plans at the edges of a part's limit. -/

namespace Sys2Proof.Machine

variable {p : Params} {w r j : Nat} {c : Chunk}

/-! ## Where a chunk of the plan lies, and which is final -/

/-- Where no chunk is marked yet, a chunk of the plan starts where the chunks before it end. -/
theorem start_of_unmarked_plan (h : p.legal = true)
    (hc : (splitPart .W p.maxTx w 0 w ++ splitPart .R p.maxRx r w r)[j]? = some c) :
    c.start =
      (((splitPart .W p.maxTx w 0 w ++ splitPart .R p.maxRx r w r).take j).map Chunk.len).sum := by
  obtain ⟨htx, -⟩ := legal_bounds h
  rw [List.take_append, List.map_append, List.sum_append]
  rcases Nat.lt_or_ge j (splitPart .W p.maxTx w 0 w).length with hj | hj
  · rw [List.getElem?_append_left hj] at hc
    rw [splitPart_start hc, Nat.sub_eq_zero_of_le hj.le]
    simp
  · rw [List.getElem?_append_right hj] at hc
    rw [splitPart_start hc, List.take_of_length_le hj, splitPart_sum htx _ le_rfl]

/-- A chunk of the plan starts where the chunks before it end (R143 (c)). -/
theorem chunkPlan_start (h : p.legal = true) (hc : (chunkPlan p w r)[j]? = some c) :
    c.start = (((chunkPlan p w r).take j).map Chunk.len).sum := by
  obtain ⟨c₀, h₀, rfl⟩ := chunkPlan_getElem?_eq_some hc
  have hstart := start_of_unmarked_plan h h₀
  rw [List.map_take, chunkPlan, markFinal_map Chunk.len (fun _ _ => rfl), ← List.map_take, ← hstart]
  split_ifs <;> rfl

/-- A chunk of the plan ends within the bytes of the request. -/
theorem chunkPlan_end_le (h : p.legal = true) (hc : (chunkPlan p w r)[j]? = some c) :
    c.start + c.len ≤ w + r := calc
  c.start + c.len = (((chunkPlan p w r).take (j + 1)).map Chunk.len).sum := by
    rw [chunkPlan_start h hc, List.take_add_one, hc]; simp
  _ ≤ ((chunkPlan p w r).map Chunk.len).sum := sum_len_take_le _ _
  _ = w + r := chunkPlan_sum h

/-- Exactly the plan's last chunk is final (R143 (e)). -/
theorem chunkPlan_final_iff (h : p.legal = true) (hc : (chunkPlan p w r)[j]? = some c) :
    c.final = true ↔ j + 1 = (chunkPlan p w r).length := by
  refine ⟨fun hfinal => ?_, fun hlast => ?_⟩
  · obtain ⟨htx, hrx, -⟩ := legal_bounds h
    obtain ⟨c₀, h₀, rfl⟩ := chunkPlan_getElem?_eq_some hc
    have hunmarked : c₀.final = false := by
      rcases List.mem_append.mp (List.mem_of_getElem? h₀) with hm | hm
      · exact (splitPart_mem htx hm).2.2.2
      · exact (splitPart_mem hrx hm).2.2.2
    by_contra hne
    simp [hne, hunmarked] at hfinal
  · by_contra hne
    have := lt_length_of_chunkPlan_not_final hc (Bool.not_eq_true _ ▸ hne)
    omega

/-! ## The two parts of the plan -/

/-- The direction and the length of a chunk, which the mark of the final chunk leaves as they are. -/
def Chunk.transfer (c : Chunk) : Dir × Nat := (c.dir, c.len)

theorem Chunk.transfer_eq_iff {c c' : Chunk} :
    c.transfer = c'.transfer ↔ c.dir = c'.dir ∧ c.len = c'.len := Prod.mk_inj

/-- The plan is a write part and a read part; one of their chunks may be marked final. -/
theorem chunkPlan_parts (p : Params) (w r : Nat) :
    ∃ ws rs, chunkPlan p w r = ws ++ rs ∧
      ws.map Chunk.transfer = (splitPart .W p.maxTx w 0 w).map Chunk.transfer ∧
      rs.map Chunk.transfer = (splitPart .R p.maxRx r w r).map Chunk.transfer := by
  rw [← List.map_eq_append_iff, ← List.map_append]
  exact markFinal_map Chunk.transfer (fun _ _ => rfl) _

section
variable {ps : List Chunk} {d : Dir} {limit start n : Nat}
  (hps : ps.map Chunk.transfer = (splitPart d limit n start n).map Chunk.transfer)
  (pos : 1 ≤ limit)
include hps pos

/-- Each chunk of a part has its direction and 1 to limit bytes (R143 (b)). -/
theorem part_mem (hc : c ∈ ps) : c.dir = d ∧ 1 ≤ c.len ∧ c.len ≤ limit := by
  have hmem : c.transfer ∈ (splitPart d limit n start n).map Chunk.transfer :=
    hps ▸ List.mem_map_of_mem hc
  obtain ⟨c₀, h₀, heq⟩ := List.mem_map.mp hmem
  obtain ⟨hdir, hlen⟩ := Chunk.transfer_eq_iff.mp heq
  obtain ⟨hd, hone, hle, -⟩ := splitPart_mem pos h₀
  rw [← hdir, ← hlen]
  exact ⟨hd, hone, hle⟩

/-- A part of n bytes has ceil(n / limit) chunks (R143 (d)). -/
theorem part_length : ps.length = (n + limit - 1) / limit := by
  rw [← List.length_map Chunk.transfer, hps, List.length_map, splitPart_length pos _ le_rfl]

/-- Every chunk of a part but its last is full (R143 (f)). -/
theorem part_full (hc : ps[j]? = some c) (hj : j + 1 < ps.length) : c.len = limit := by
  have hlength : ps.length = (splitPart d limit n start n).length := by
    simpa using congrArg List.length hps
  have hget : (splitPart d limit n start n)[j]?.map Chunk.transfer = some c.transfer := by
    rw [← List.getElem?_map, ← hps, List.getElem?_map, hc, Option.map_some]
  obtain ⟨c₀, h₀, heq⟩ := Option.map_eq_some_iff.mp hget
  rw [← (Chunk.transfer_eq_iff.mp heq).2]
  exact splitPart_full pos le_rfl h₀ (hlength ▸ hj)

end

/-- Settles O25: (a), (c), (e) and the bound on BUF of the whole plan, (b), (d) and (f) of its two parts. -/
theorem chunkPlanInvariants : Obligations.ChunkPlanInvariants := by
  intro p w r h
  obtain ⟨htx, hrx, -, hcap⟩ := legal_bounds h
  obtain ⟨ws, rs, hplan, hws, hrs⟩ := chunkPlan_parts p w r
  refine ⟨chunkPlan_sum h, fun c hc => ?_, fun _ _ => chunkPlan_start h,
    ⟨ws, rs, hplan, fun c hc => (part_mem hws htx hc).1, fun c hc => (part_mem hrs hrx hc).1,
      part_length hws htx, part_length hrs hrx, fun _ _ => part_full hws htx,
      fun _ _ => part_full hrs hrx⟩,
    fun _ _ => chunkPlan_final_iff h, fun hmax c hc => ?_⟩
  · rcases List.mem_append.mp (hplan ▸ hc) with hm | hm
    · obtain ⟨hdir, hone, hle⟩ := part_mem hws htx hm
      simp [hdir, hone, hle]
    · obtain ⟨hdir, hone, hle⟩ := part_mem hrs hrx hm
      simp [hdir, hone, hle]
  · obtain ⟨j, hj⟩ := List.getElem?_of_mem hc
    exact ⟨(chunkPlan_end_le h hj).trans hmax, hcap⟩

/-! ## The plans at the edges of a limit -/

/-- A part of 1 to limit bytes is one chunk. -/
theorem splitPart_of_le_limit {d : Dir} {limit fuel start n : Nat} (pos : 1 ≤ n) (hle : n ≤ limit)
    (enough : n ≤ fuel) :
    splitPart d limit fuel start n = [{ dir := d, start := start, len := n, final := false }] := by
  obtain ⟨fuel, rfl⟩ := Nat.exists_eq_add_of_le' (pos.trans enough)
  simp [splitPart, min_eq_left hle, Nat.one_le_iff_ne_zero.mp pos]

/-- A part of its limit and one byte is a full chunk and a chunk of one byte. -/
theorem splitPart_limit_add_one {d : Dir} {limit start : Nat} (pos : 1 ≤ limit) :
    splitPart d limit (limit + 1) start (limit + 1) =
      [{ dir := d, start := start, len := limit, final := false },
       { dir := d, start := start + limit, len := 1, final := false }] := by
  simp [splitPart, splitPart_of_le_limit le_rfl pos pos]

/-- Settles O26: each part is empty, one chunk or two chunks, of which the last is marked. -/
theorem chunkPlanEdgeCases : Obligations.ChunkPlanEdgeCases := by
  intro p h
  obtain ⟨htx, hrx, -⟩ := legal_bounds h
  refine ⟨?_, ?_, ?_, ?_, ?_⟩
  · simp [chunkPlan, markFinal]
  · simp [chunkPlan, markFinal, splitPart_of_le_limit htx]
  · simp [chunkPlan, markFinal, splitPart_of_le_limit hrx]
  · simp [chunkPlan, markFinal, splitPart_limit_add_one htx]
  · simp [chunkPlan, markFinal, splitPart_limit_add_one hrx]

end Sys2Proof.Machine
end

section
/-! PROOFS. The micro-steps of a chunk (spec/42_transaction_driver.md R163 to R172) as equations: the inversion lemma of
the micro-step read the other way round, and each phase's next state field by field. -/

namespace Sys2Proof.Machine

variable {s t : State} {c : Chunk} {a : BusAnswer}

/-! ## A primitive that fails -/

theorem addrPhase_of_not_ok (bad : a.resp ≠ .ok) :
    addrPhase c a s =
      (s.issue (.startCycle (addrBytes s.seq.req.addr s.seq.req.a10 c.dir.rw)) a).abort a.resp := by
  cases hr : a.resp <;> simp_all [addrPhase]

theorem dataWritePhase_of_not_ok (bad : a.resp ≠ .ok) {b : Byte}
    (hb : s.memRead (c.start + s.seq.i) = .ok b) :
    dataWritePhase c a s = .next ((s.issue (.writeByte b) a).abort a.resp) := by
  cases hr : a.resp <;> simp_all [dataWritePhase]

theorem dataReadPhase_of_not_ok (bad : a.resp ≠ .ok) :
    dataReadPhase c a s = .next ((s.issue (.readByte (s.lastDataRead c)) a).abort a.resp) := by
  cases hr : a.resp <;> simp_all [dataReadPhase]

theorem pecWritePhase_of_not_ok (bad : a.resp ≠ .ok) :
    pecWritePhase a s = (s.issue (.writeByte s.acc) a).abort a.resp := by
  cases hr : a.resp <;> simp_all [pecWritePhase]

theorem pecReadPhase_of_not_ok (bad : a.resp ≠ .ok) :
    pecReadPhase a s = (s.issue (.readByte true) a).abort a.resp := by
  cases hr : a.resp <;> simp_all [pecReadPhase]

theorem dataReadPhase_of_ok (ok : a.resp = .ok) (inBuf : c.start + s.seq.i < s.caps.bufCap) :
    dataReadPhase c a s = .next
      ((((s.issue (.readByte (s.lastDataRead c)) a).setBuf
        (s.buf.write (c.start + s.seq.i) a.byte)).fold [a.byte]).nextByte c) := by
  have hstore : (s.issue (.readByte (s.lastDataRead c)) a).memWrite (c.start + s.seq.i) a.byte = _ :=
    State.memWrite_ok.mpr ⟨inBuf, rfl⟩
  simp [dataReadPhase, ok, hstore]

theorem stopPhase_eq :
    stopPhase c a s =
      ((s.issue .stopCycle a).setSeq
        { s.seq with fail := s.seq.fail.or (failOf a.resp) }).endOfChunk c := by
  unfold stopPhase
  cases hf : s.seq.fail <;> simp [hf]

/-- Whatever the inversion lemma of the micro-step allows is what the micro-step does, where a data phase is at a BUF
index. -/
theorem MicroNext.microStep_eq (hn : MicroNext c a s t) (hc : s.currentChunk = some c)
    (inBuf : s.seq.phase = .data → c.start + s.seq.i < s.caps.bufCap) :
    microStep a s = .next t := by
  cases hn with
  | idle hp => simp [microStep, hc, hp]
  | addrOk hp ok => rw [microStep_addr a hc hp]; simp [addrPhase, ok]
  | wroteOk b hp hd ok _ hb =>
    rw [microStep_dataWrite a hc hp hd]
    simp [dataWritePhase, State.memRead_ok.mpr ⟨inBuf hp, hb⟩, ok]
  | readOk hp hd ok _ => rw [microStep_dataRead a hc hp hd, dataReadPhase_of_ok ok (inBuf hp)]
  | pecWrote hp hd ok => rw [microStep_pecWrite a hc hp hd]; simp [pecWritePhase, ok]
  | pecRead hp hd ok => rw [microStep_pecRead a hc hp hd]; simp only [pecReadPhase, ok]; rfl
  | stopped hp => rw [microStep_stop a hc hp, stopPhase_eq]
  | aborted hp => rw [microStep_abortStop a hc hp, abortStopPhase]
  | failed q hq hp bad =>
    rcases hp with hp | hp | hp
    · simp only [State.primitive, hp, Option.some.injEq] at hq
      rw [microStep_addr a hc hp, addrPhase_of_not_ok bad, hq]
    · cases hd : c.dir with
      | W =>
        simp only [State.primitive, hp, hd, Option.map_eq_some_iff] at hq
        obtain ⟨b, hb, rfl⟩ := hq
        rw [microStep_dataWrite a hc hp hd,
          dataWritePhase_of_not_ok bad (State.memRead_ok.mpr ⟨inBuf hp, hb⟩)]
      | R =>
        simp only [State.primitive, hp, hd, Option.some.injEq] at hq
        rw [microStep_dataRead a hc hp hd, dataReadPhase_of_not_ok bad, hq]
    · cases hd : c.dir with
      | W =>
        simp only [State.primitive, hp, hd, Option.some.injEq] at hq
        rw [microStep_pecWrite a hc hp hd, pecWritePhase_of_not_ok bad, hq]
      | R =>
        simp only [State.primitive, hp, hd, Option.some.injEq] at hq
        rw [microStep_pecRead a hc hp hd, pecReadPhase_of_not_ok bad, hq]

/-- The failure is recorded and the abort stop follows, whichever primitive failed (R163, R166 to R169). -/
theorem microStep_of_failed {q : BusRequest} {e : BusEvent} {f : ChunkFail}
    (hc : s.currentChunk = some c) (hq : s.primitive c = some q)
    (hp : s.seq.phase = .addr ∨ s.seq.phase = .data ∨ s.seq.phase = .pec)
    (inBuf : s.seq.phase = .data → c.start + s.seq.i < s.caps.bufCap)
    (he : answered q a = e) (hf : failOf a.resp = some f) :
    microStep a s = .next
      { s with
        busLog := s.busLog ++ [e]
        seq := { s.seq with fail := some f, phase := .abortStop } } := by
  have bad : a.resp ≠ .ok := fun ok => by simp [ok, failOf] at hf
  rw [(MicroNext.failed q hq hp bad).microStep_eq hc inBuf, ← he, ← hf]
  rfl

theorem answered_read_of_ok (ok : a.resp = .ok) (last : Bool) :
    answered (.readByte last) a =
      { request := .readByte last, response := some .ok, data := some a.byte } := by
  simp [answered, ok]

theorem answered_read_of_not_ok {r : Response} (hr : a.resp = r) (bad : r ≠ .ok) (last : Bool) :
    answered (.readByte last) a =
      { request := .readByte last, response := some r, data := none } := by
  cases r <;> simp_all [answered]

/-! ## The address phase and the data phases -/

theorem State.fold_eq (s : State) (bs : List Byte) :
    s.fold bs = s.setAcc (if s.seq.req.pec = true then crc8 s.acc bs else s.acc) := by
  unfold State.fold
  split_ifs <;> rfl

/-- Settles O27, by the three answers to startCycle. -/
theorem addressPhase : Obligations.AddressPhase := by
  intro s c a hc hp ab log
  have hq : s.primitive c = some (.startCycle ab) := by simp [State.primitive, hp, ab]
  have inBuf : s.seq.phase = .data → c.start + s.seq.i < s.caps.bufCap := by simp [hp]
  refine ⟨fun ok => ?_, fun hr => ?_, fun hr => ?_⟩
  · rw [(MicroNext.addrOk hp ok).microStep_eq hc inBuf, State.fold_eq]
    rfl
  · exact microStep_of_failed hc hq (.inl hp) inBuf rfl (by rw [hr]; rfl)
  · exact microStep_of_failed hc hq (.inl hp) inBuf rfl (by rw [hr]; rfl)

/-- Settles O28: an unwritten byte faults, and a written one is sent, with one of three answers. -/
theorem writeDataPhase : Obligations.WriteDataPhase := by
  intro s c a hc hp hd inBuf
  refine ⟨fun hnone => ?_, fun b hb => ?_⟩
  · have hfault := State.memRead_error.mpr (.inr ⟨inBuf, hnone, rfl⟩)
    rw [microStep_dataWrite a hc hp hd, dataWritePhase, hfault]
  · have hq : s.primitive c = some (.writeByte b) := by simp [State.primitive, hp, hd, hb]
    refine ⟨fun ok => ?_, fun hr => ?_, fun hr => ?_⟩
    · rw [(MicroNext.wroteOk b hp hd ok inBuf hb).microStep_eq hc fun _ => inBuf, State.fold_eq,
        ← hp]
      rfl
    · exact microStep_of_failed hc hq (.inr (.inl hp)) (fun _ => inBuf) rfl (by rw [hr]; rfl)
    · exact microStep_of_failed hc hq (.inr (.inl hp)) (fun _ => inBuf) rfl (by rw [hr]; rfl)

theorem State.lastDataRead_eq (s : State) (c : Chunk) :
    s.lastDataRead c = decide (s.seq.i + 1 = c.len ∧ s.seq.req.pec = false) := by
  cases hpec : s.seq.req.pec <;> simp [State.lastDataRead, hpec]

/-- Settles O29: the byte received is stored by a write of BUF; the other answers store none. -/
theorem readDataPhase : Obligations.ReadDataPhase := by
  intro s c a hc hp hd inBuf last
  have hlast : s.lastDataRead c = last := s.lastDataRead_eq c
  have hq : s.primitive c = some (.readByte last) := by simp [State.primitive, hp, hd, hlast]
  refine ⟨fun ok => ⟨s.buf.write (c.start + s.seq.i) a.byte, Memory.read_write_same _ _ _,
    fun j hj => Memory.read_write_other _ _ hj, ?_⟩, fun hr => ?_, fun hr => ?_⟩
  · rw [(MicroNext.readOk hp hd ok inBuf).microStep_eq hc fun _ => inBuf, State.fold_eq, hlast,
      ← answered_read_of_ok ok, ← hp]
    rfl
  · exact microStep_of_failed hc hq (.inr (.inl hp)) (fun _ => inBuf)
      (answered_read_of_not_ok hr (by decide) last) (by rw [hr]; rfl)
  · exact microStep_of_failed hc hq (.inr (.inl hp)) (fun _ => inBuf)
      (answered_read_of_not_ok hr (by decide) last) (by rw [hr]; rfl)

/-! ## The PEC phases -/

/-- Settles O30, by the three answers to the writeByte of acc. -/
theorem writePecPhase : Obligations.WritePecPhase := by
  intro s c a hc hp hd log
  have hq : s.primitive c = some (.writeByte s.acc) := by simp [State.primitive, hp, hd]
  have inBuf : s.seq.phase = .data → c.start + s.seq.i < s.caps.bufCap := by simp [hp]
  refine ⟨fun ok => ?_, fun hr => ?_, fun hr => ?_⟩
  · rw [(MicroNext.pecWrote hp hd ok).microStep_eq hc inBuf]
    rfl
  · exact microStep_of_failed hc hq (.inr (.inr hp)) inBuf rfl (by rw [hr]; rfl)
  · exact microStep_of_failed hc hq (.inr (.inr hp)) inBuf rfl (by rw [hr]; rfl)

/-- Settles O31, by the three answers to the readByte of the PEC byte. -/
theorem readPecPhase : Obligations.ReadPecPhase := by
  intro s c a hc hp hd
  have hq : s.primitive c = some (.readByte true) := by simp [State.primitive, hp, hd]
  have inBuf : s.seq.phase = .data → c.start + s.seq.i < s.caps.bufCap := by simp [hp]
  refine ⟨fun ok => ?_, fun hr => ?_, fun hr => ?_⟩
  · rw [(MicroNext.pecRead hp hd ok).microStep_eq hc inBuf, ← answered_read_of_ok ok]
    rfl
  · exact microStep_of_failed hc hq (.inr (.inr hp)) inBuf
      (answered_read_of_not_ok hr (by decide) true) (by rw [hr]; rfl)
  · exact microStep_of_failed hc hq (.inr (.inr hp)) inBuf
      (answered_read_of_not_ok hr (by decide) true) (by rw [hr]; rfl)

/-! ## The stop phases and the end of a chunk -/

/-- The state after completion, field by field (43_facade.md R201). -/
theorem State.complete_eq (s : State) (st : Code) (d : Dir) :
    s.complete st d =
      { s with
        code := st, busy := false
        xferCount :=
          if st ≠ .success ∧ d = .W then 0#16 else BitVec.ofNat 16 (s.seq.tx + s.seq.rx)
        rxCount := if st ≠ .success ∧ d = .W then 0#16 else BitVec.ofNat 16 s.seq.rx
        seq := { s.seq with phase := .idle } } := by
  cases st <;> cases d <;> rfl

theorem State.endOfChunk_of_not_final (hf : s.seq.fail = none) (hl : c.final = false) :
    s.endOfChunk c = (s.countChunk c).nextChunk := by
  simp [State.endOfChunk, hf, hl]

theorem State.endOfChunk_of_final (hf : s.seq.fail = none) (hl : c.final = true) :
    s.endOfChunk c = (s.countChunk c).complete .success c.dir := by
  simp [State.endOfChunk, hf, hl]

/-- A chunk with a wrong PEC byte is counted and ends the request (R172). -/
theorem State.endOfChunk_of_mismatch (hf : s.seq.fail = some .checksumMismatch) :
    s.endOfChunk c =
      (s.setSeq { s.seq with rx := s.seq.rx + c.len }).complete .checksumMismatch .R := by
  simp [State.endOfChunk, hf]

/-- A chunk that failed on the bus ends the request and is not counted (R172). -/
theorem State.endOfChunk_of_busFail {f : ChunkFail} (hf : s.seq.fail = some f)
    (hbus : f ≠ .checksumMismatch) : s.endOfChunk c = s.complete f.code c.dir := by
  cases f <;> simp_all [State.endOfChunk]

/-- The counts after a chunk that failed on the bus: 0 and 0, or those of the chunks before it. -/
theorem State.complete_of_busFail (s : State) {f : ChunkFail} (d : Dir) :
    s.complete f.code d =
      { s with
        code := f.code, busy := false
        xferCount := if d = .W then 0#16 else BitVec.ofNat 16 (s.seq.tx + s.seq.rx)
        rxCount := if d = .W then 0#16 else BitVec.ofNat 16 s.seq.rx
        seq := { s.seq with phase := .idle } } := by
  cases f <;> cases d <;> rfl

theorem State.countChunk_eq (s : State) (c : Chunk) :
    s.countChunk c =
      { s with
        seq :=
          { s.seq with
            tx := if c.dir = .W then s.seq.tx + c.len else s.seq.tx
            rx := if c.dir = .R then s.seq.rx + c.len else s.seq.rx } } := by
  unfold State.countChunk
  cases c.dir <;> rfl

/-- The stop phase, its answer recorded unless a failure was before (R170). -/
theorem microStep_of_stop {f : Option ChunkFail} (a : BusAnswer) (hc : s.currentChunk = some c)
    (hp : s.seq.phase = .stop) (hf : s.seq.fail.or (failOf a.resp) = f) :
    microStep a s = .next (((s.issue .stopCycle a).setSeq { s.seq with fail := f }).endOfChunk c) := by
  rw [microStep_stop a hc hp, stopPhase_eq, hf]

/-- Settles O32 (named apart from the stopPhase of the model): the answer to the stop and the failure recorded
before it decide the end of the chunk. -/
theorem Driver.stopPhase : Obligations.StopPhase := by
  intro s c a hc hp log tx rx
  refine ⟨fun hf ok hl => ?_, fun hf ok hl => ?_, fun hf code fail h => ?_, fun hf => ?_,
    fun code fail h hf => ?_⟩
  · rw [microStep_of_stop (f := none) a hc hp (by rw [hf, ok]; rfl),
      State.endOfChunk_of_not_final rfl hl, State.countChunk_eq]
    rfl
  · rw [microStep_of_stop (f := none) a hc hp (by rw [hf, ok]; rfl),
      State.endOfChunk_of_final rfl hl, State.countChunk_eq, State.complete_eq, ← hf]
    rfl
  · obtain ⟨hrec, rfl, hbus⟩ :
        failOf a.resp = some fail ∧ code = fail.code ∧ fail ≠ .checksumMismatch := by
      rcases h with ⟨hr, rfl, rfl⟩ | ⟨hr, rfl, rfl⟩ <;> simp [hr, failOf, ChunkFail.code]
    rw [microStep_of_stop (f := some fail) a hc hp (by rw [hf, hrec]; rfl),
      State.endOfChunk_of_busFail rfl hbus, State.complete_of_busFail]
    rfl
  · rw [microStep_of_stop (f := some .checksumMismatch) a hc hp (by rw [hf]; rfl),
      State.endOfChunk_of_mismatch rfl, State.complete_eq, ← hf]
    rfl
  · obtain ⟨rfl, hbus⟩ : code = fail.code ∧ fail ≠ .checksumMismatch := by
      rcases h with ⟨rfl, rfl⟩ | ⟨rfl, rfl⟩ <;> simp [ChunkFail.code]
    rw [microStep_of_stop (f := some fail) a hc hp (by rw [hf]; rfl),
      State.endOfChunk_of_busFail rfl hbus, State.complete_of_busFail, ← hf]
    rfl

/-- Settles O33 (named apart, as above): the answer to the abort stop is not looked at, and the failure recorded
before ends the request. -/
theorem Driver.abortStopPhase : Obligations.AbortStopPhase := by
  intro s c a hc hp code fail h hf
  obtain ⟨rfl, hbus⟩ : code = fail.code ∧ fail ≠ .checksumMismatch := by
    rcases h with ⟨rfl, rfl⟩ | ⟨rfl, rfl⟩ <;> simp [ChunkFail.code]
  rw [(MicroNext.aborted hp).microStep_eq hc (by simp [hp]),
    State.endOfChunk_of_busFail (by exact hf) hbus, State.complete_of_busFail]
  rfl

end Sys2Proof.Machine
end

section
/-! PROOFS. What a micro-step and a host step leave unchanged (spec/42_transaction_driver.md R160, R173): the frame of
the micro-step, its one downstream request, and the host's part while BUSY = 1. -/

namespace Sys2Proof.Machine

variable {s t : State} {c : Chunk} {a : BusAnswer}

/-! ## The frame of a micro-step -/

/-- A micro-step leaves alone what is not the sequencer's (R160). -/
theorem MicroNext.environment_eq (hn : MicroNext c a s t) :
    t.cmd = s.cmd ∧ t.ovr = s.ovr ∧ t.result = s.result ∧ t.host = s.host ∧
      t.answers = s.answers ∧ t.schedule = s.schedule ∧ t.draws = s.draws ∧ t.powerOn = s.powerOn := by
  cases hn <;> simp

/-- The end of a chunk keeps the latched request and its plan. -/
theorem State.endOfChunk_plan_eq (s : State) (c : Chunk) :
    (s.endOfChunk c).seq.req = s.seq.req ∧ (s.endOfChunk c).seq.chunks = s.seq.chunks := by
  unfold State.endOfChunk
  split
  · split_ifs <;> simp [State.countChunk_seq]
  · simp
  · simp

theorem MicroNext.plan_eq (hn : MicroNext c a s t) :
    t.seq.req = s.seq.req ∧ t.seq.chunks = s.seq.chunks := by
  cases hn with
  | stopped _ | aborted _ => exact State.endOfChunk_plan_eq _ c
  | _ => simp [State.nextByte]

/-- Only folding writes acc (R164). -/
theorem MicroNext.acc_eq (hn : MicroNext c a s t) (hpec : s.seq.req.pec = false) :
    t.acc = s.acc := by
  cases hn <;> simp [State.fold_acc, hpec]

/-- The one way in which a micro-step changes BUF: it stores the byte of an Ok-answered data read (R167). -/
theorem MicroNext.buf_cases (hn : MicroNext c a s t) :
    t.buf = s.buf ∨
      (s.seq.phase = .data ∧ c.dir = .R ∧ a.resp = .ok) ∧
        t.buf = s.buf.write (c.start + s.seq.i) a.byte := by
  cases hn with
  | readOk hp hd ok _ => exact .inr ⟨⟨hp, hd, ok⟩, by simp⟩
  | _ => exact .inl (by simp)

/-- Settles O34, by the cases of the inversion lemma of the micro-step. -/
theorem microStepFrame : Obligations.MicroStepFrame := by
  intro s t a h
  obtain ⟨c, hc, hn⟩ := microStep_next h
  obtain ⟨hcmd, hovr, hresult, hhost, hanswers, hschedule, hdraws, hpowerOn⟩ := hn.environment_eq
  obtain ⟨hreq, hchunks⟩ := hn.plan_eq
  refine ⟨hcmd, hovr, hresult, hn.caps_eq, hhost, hanswers, hschedule, hdraws, hpowerOn, hreq, hchunks,
    hn.acc_eq, fun c' hc' _ _ _ j hj => ?_, fun hno j => ?_⟩
  · obtain rfl : c = c' := by simpa [hc] using hc'
    rcases hn.buf_cases with hbuf | ⟨-, hbuf⟩ <;> rw [hbuf]
    exact Memory.read_write_other _ _ hj
  · rcases hn.buf_cases with hbuf | ⟨hread, -⟩
    · rw [hbuf]
    · exact absurd hread (hno c hc)

/-! ## Its downstream request -/

/-- A byte is received by a readByte answered Ok, and by no other request (10_state.md R41). -/
theorem answered_data (q : BusRequest) (a : BusAnswer) :
    ((answered q a).data = some a.byte ∧ a.resp = .ok ∧ ∃ last, q = .readByte last) ∨
      (answered q a).data = none := by
  cases q with
  | readByte last => cases hr : a.resp <;> simp [answered, hr]
  | _ => exact .inr rfl

/-- Where only the sequencer can move, a step is its micro-step with the first of the given answers. -/
theorem step_of_given_answer {rest : List BusAnswer} (hp : s.powerOn = false)
    (hend : s.host.prog.length ≤ s.host.pc) (busy : s.busy = true) (hph : s.seq.phase ≠ .idle)
    (has : s.answers = a :: rest) : step s = microStep a { s with answers := rest } := by
  rw [step_of_sequencer_enabled hp (hostEnabled_eq_false_iff.mpr hend)
    (sequencerEnabled_eq_true_iff.mpr ⟨busy, hph⟩)]
  simp [sequencerStep, State.nextAnswer, State.takeAnswer, has]

/-- Settles O35: the request is that of the phase, and the answer the first given one. -/
theorem microStepIssuesOneRequest : Obligations.MicroStepIssuesOneRequest := by
  refine ⟨fun s t a hp h => ?_, fun s a rest hpow hend busy hp has =>
    step_of_given_answer hpow hend busy hp has⟩
  obtain ⟨c, -, hn⟩ := microStep_next h
  obtain ⟨q, hq, hlog⟩ := hn.busLog hp
  exact ⟨answered q a, hlog, rfl, fun hreset => s.primitive_ne_busReset c (hreset ▸ hq),
    answered_data q a⟩

/-! ## The host while a request is in progress -/

/-- A host statement while BUSY = 1 changes OVR, the host and the count of free values only (R173). -/
theorem HostNext.eq_of_busy (hn : HostNext s t) (busy : s.busy = true) :
    t = { s with ovr := t.ovr, host := t.host, draws := t.draws } ∧ (s.ovr = true → t.ovr = true) := by
  cases hn with
  | same | jump _ | read _ _ | draw _ _ => exact ⟨rfl, id⟩
  | overrun _ => exact ⟨rfl, fun _ => rfl⟩
  | store _ _ idle _ | illegal _ idle | command _ _ _ idle _ _ => simp [busy] at idle

/-- Settles O54: no host statement while BUSY = 1 stores a byte or accepts a command. -/
theorem hostCannotDisturbRequest : Obligations.HostCannotDisturbRequest := by
  intro s t busy h
  rcases hostStep_next h with ⟨-, rfl⟩ | hn
  · exact ⟨rfl, id⟩
  · exact hn.eq_of_busy busy

end Sys2Proof.Machine
end

section
/-! PROOFS. The bound on a request's micro-steps (spec/42_transaction_driver.md R174, R175): what it is at acceptance,
that every micro-step lowers it, and that the request is complete when it has run out. -/

namespace Sys2Proof.Machine

variable {s t : State} {c : Chunk} {a : BusAnswer}

/-! ## The bound -/

/-- The micro-steps that the chunks cs take at most. -/
def planCost (pec : Bool) (cs : List Chunk) : Nat := (cs.map (chunkCost pec)).sum

theorem planCost_eq (pec : Bool) (cs : List Chunk) :
    planCost pec cs = (cs.map Chunk.len).sum + (2 + pecCost pec) * cs.length := by
  induction cs with
  | nil => rfl
  | cons c cs ih =>
    simp only [planCost, List.map_cons, List.sum_cons, List.length_cons, chunkCost] at ih ⊢
    rw [ih, Nat.mul_add]
    omega

theorem planCost_drop {pec : Bool} {cs : List Chunk} {k : Nat} (hc : cs[k]? = some c) :
    planCost pec (cs.drop k) = chunkCost pec c + planCost pec (cs.drop (k + 1)) := by
  obtain ⟨hk, rfl⟩ := List.getElem?_eq_some_iff.mp hc
  rw [planCost, List.drop_eq_getElem_cons hk, List.map_cons, List.sum_cons, planCost]

theorem State.remaining_of_idle (idle : s.busy = false) : s.remaining = 0 := by
  simp [State.remaining, idle]

/-- The bound is what is left of the current chunk, and the chunks after it. -/
theorem State.remaining_of_busy (busy : s.busy = true) (hc : s.currentChunk = some c) :
    s.remaining = chunkRest s c + planCost s.seq.req.pec (s.seq.chunks.drop (s.seq.k + 1)) := by
  simp [State.remaining, busy, hc, planCost]

/-- At the address phase of a chunk the bound is that of the chunk and those after it. -/
theorem State.remaining_of_addr (busy : s.busy = true) (hp : s.seq.phase = .addr) :
    s.remaining = planCost s.seq.req.pec (s.seq.chunks.drop s.seq.k) := by
  cases hc : s.currentChunk with
  | none =>
    have hk : s.seq.chunks.length ≤ s.seq.k := List.getElem?_eq_none_iff.mp hc
    have hk' : s.seq.chunks.length ≤ s.seq.k + 1 := by omega
    simp [State.remaining, busy, hc, planCost, List.drop_eq_nil_of_le hk, List.drop_eq_nil_of_le hk']
  | some c =>
    rw [State.remaining_of_busy busy hc, planCost_drop hc]
    simp [chunkRest, hp]

/-- A command that begins a request is a START and leaves the state of its acceptance (43_facade.md R196). -/
theorem exec_begins {i : Instr} {q : Request} (idle : s.busy = false) (hq : startOf i = some q)
    (h : exec i s = .next t) (busy : t.busy = true) : t = s.started q := by
  cases exec_next h with
  | begin q' hq' => rw [show q = q' by simpa [hq] using hq']
  | same | outcome _ | checksum _ _ _ | reset _ | refuse _ | latch _ _ _ _ =>
    cases busy.symm.trans idle

theorem State.remaining_started (s : State) (q : Request) :
    (s.started q).remaining = planCost q.pec (s.started q).seq.chunks :=
  State.remaining_of_addr rfl rfl

/-! ## Every micro-step lowers it -/

/-- A request in progress has a micro-step left. -/
theorem remaining_pos (h : StateInv s) (busy : s.busy = true) : 0 < s.remaining := by
  obtain ⟨c, hc, hfit⟩ := (h.request busy).current
  have hrest : 0 < chunkRest s c := by
    cases hp : s.seq.phase <;> simp_all [phaseFits, chunkRest, chunkCost]
  rw [State.remaining_of_busy busy hc]
  omega

/-- A data byte, or the PEC byte or stop that follows the last one, is one micro-step nearer the end. -/
theorem chunkRest_nextByte {u : State} (hu : u.seq = s.seq) (hp : s.seq.phase = .data)
    (hi : s.seq.i < c.len) : chunkRest (u.nextByte c) c < chunkRest s c := by
  by_cases hl : s.seq.i + 1 = c.len
  · cases hpec : s.seq.req.pec <;>
      simp [chunkRest, State.nextByte, hu, hp, hl, hpec, pecCost] <;> omega
  · simp [chunkRest, State.nextByte, hu, hp, hl]
    omega

/-- A micro-step inside a chunk takes one of the chunk's micro-steps. -/
theorem chunkRest_lt_of_microNext (hn : MicroNext c a s t) (hfit : phaseFits s c)
    (hp : s.seq.phase ≠ .stop ∧ s.seq.phase ≠ .abortStop) : chunkRest t c < chunkRest s c := by
  cases hn with
  | idle hi => simp [phaseFits, hi] at hfit
  | addrOk hp _ => simp [chunkRest, chunkCost, hp]
  | wroteOk _ hp | readOk hp =>
    obtain ⟨hi, -⟩ := (phaseFits_data hp).mp hfit
    exact chunkRest_nextByte (by simp) hp hi
  | pecWrote hp | pecRead hp => simp [chunkRest, hp]
  | failed q _ hp _ =>
    rcases hp with hp | hp | hp
    · simp [chunkRest, chunkCost, hp]; omega
    · obtain ⟨hi, -⟩ := (phaseFits_data hp).mp hfit
      simp [chunkRest, hp]; omega
    · simp [chunkRest, hp]
  | stopped hs => exact absurd hs hp.1
  | aborted hs => exact absurd hs hp.2

/-- Every way in which a chunk ends: the next chunk's address phase, or a completed request at the same chunk. -/
theorem endOfChunk_next_or_complete (s : State) (c : Chunk) :
    s.endOfChunk c = (s.countChunk c).nextChunk ∨
      ∃ (u : State) (st : Code) (d : Dir), s.endOfChunk c = u.complete st d ∧
        u.currentChunk = s.currentChunk ∧
        st ∈ [.success, .deviceNotPresent, .busTimeout, .checksumMismatch] := by
  unfold State.endOfChunk
  split
  next =>
    split_ifs
    · exact .inr ⟨_, _, _, rfl, by simp [State.currentChunk, State.countChunk_seq], by simp⟩
    · exact .inl rfl
  next => exact .inr ⟨_, _, _, rfl, rfl, by simp⟩
  next f _ _ => exact .inr ⟨_, _, _, rfl, rfl, by cases f <;> simp [ChunkFail.code]⟩

/-- After the end of a chunk at most the chunks after it are left. -/
theorem remaining_endOfChunk_le (busy : s.busy = true) :
    (s.endOfChunk c).remaining ≤ planCost s.seq.req.pec (s.seq.chunks.drop (s.seq.k + 1)) := by
  rcases endOfChunk_next_or_complete s c with he | ⟨u, st, d, he, -, -⟩ <;> rw [he]
  · rw [State.remaining_of_addr (by simpa using busy) rfl]
    simp [State.countChunk_seq]
  · rw [State.remaining_of_idle (State.complete_busy u st d)]
    exact Nat.zero_le _

theorem remaining_lt_of_microNext (hn : MicroNext c a s t) (h : StateInv s) (busy : s.busy = true)
    (hc : s.currentChunk = some c) : t.remaining < s.remaining := by
  have hfit := (h.request busy).phaseFits hc
  have hinside (hp : s.seq.phase ≠ .stop ∧ s.seq.phase ≠ .abortStop) : t.remaining < s.remaining := by
    have later := hn.laterInChunk hp
    have htc : t.currentChunk = some c := by rw [State.currentChunk, later.seq]; exact hc
    rw [State.remaining_of_busy busy hc, State.remaining_of_busy (later.busy.trans busy) htc, later.seq]
    exact Nat.add_lt_add_right (chunkRest_lt_of_microNext hn hfit hp) _
  have hend {u : State} (hp : chunkRest s c = 1) (hb : u.busy = s.busy) (hreq : u.seq.req = s.seq.req)
      (hchunks : u.seq.chunks = s.seq.chunks) (hk : u.seq.k = s.seq.k) :
      (u.endOfChunk c).remaining < s.remaining := by
    rw [State.remaining_of_busy busy hc, hp, ← hreq, ← hchunks, ← hk]
    exact Nat.lt_one_add_iff.mpr (remaining_endOfChunk_le (hb.trans busy))
  cases hn with
  | stopped hp | aborted hp => exact hend (by simp [chunkRest, hp]) rfl rfl rfl rfl
  | idle hp | addrOk hp | wroteOk _ hp | readOk hp | pecWrote hp | pecRead hp =>
    exact hinside (by simp [hp])
  | failed _ _ hp => exact hinside (by rcases hp with hp | hp | hp <;> simp [hp])

/-- Settles O42: the bound at acceptance is the plan's, and each micro-step takes one of the current chunk's or ends
the chunk. -/
theorem microStepsAreBounded : Obligations.MicroStepsAreBounded := by
  refine ⟨fun s t i q legal idle hq h busy => ?_, fun s t a h busy hstep => ?_⟩
  · obtain rfl := exec_begins idle hq h busy
    refine ⟨s.remaining_started q, ?_⟩
    rw [s.remaining_started q, planCost_eq]
    congr 1
    exact chunkPlan_sum legal
  · obtain ⟨c, hc, hn⟩ := microStep_next hstep
    exact remaining_lt_of_microNext hn h busy hc

/-! ## The end of a request -/

/-- Every index that the current chunk names is a BUF index (41_segmenter.md R143). -/
theorem StateInv.index_lt_bufCap (h : StateInv s) (busy : s.busy = true)
    (hc : s.currentChunk = some c) (hi : s.seq.i < c.len) : c.start + s.seq.i < s.caps.bufCap := by
  have hq := h.request busy
  obtain ⟨-, -, -, hcap⟩ := legal_bounds h.legal
  have hend := chunkPlan_end_le h.legal (hq.plan_current hc)
  have hfits := hq.fits
  rw [totalLen] at hfits
  omega

/-- With its write part written a request does not fault: a micro-step always goes on. -/
theorem StateInv.exists_microStep_next (h : StateInv s) (busy : s.busy = true)
    (written : ∀ i < s.seq.req.wlen.toNat, s.buf.read i ≠ none) (a : BusAnswer) :
    ∃ t, microStep a s = .next t := by
  obtain ⟨hrefused, hfault⟩ := microStep_stops (s := s) (a := a)
  have hq := h.request busy
  cases hm : microStep a s with
  | next t => exact ⟨t, rfl⟩
  | refused r => exact absurd hm (hrefused r)
  | fault f =>
    rcases hfault f hm with ⟨hnone, -⟩ | ⟨c, hc, hp, hstop⟩
    · obtain ⟨c, hc, -⟩ := hq.current
      rw [hnone] at hc; cases hc
    · obtain ⟨hi, -⟩ := (phaseFits_data hp).mp (hq.phaseFits hc)
      rcases hstop with ⟨hout, -⟩ | ⟨hd, hnone, -⟩
      · exact absurd (h.index_lt_bufCap busy hc hi) (Nat.not_lt.mpr hout)
      · have hend := write_chunk_end_le h.legal (hq.plan_current hc) hd
        exact absurd hnone (written _ (by omega))

/-- A byte that is written stays written. -/
theorem MicroNext.written (hn : MicroNext c a s t) {i : Nat} (hi : s.buf.read i ≠ none) :
    t.buf.read i ≠ none := by
  rcases hn.buf_cases with hbuf | ⟨-, hbuf⟩ <;> rw [hbuf]
  · exact hi
  · by_cases he : i = c.start + s.seq.i
    · simp [he]
    · rwa [Memory.read_write_other _ _ he]

/-- A micro-step that ends the request leaves its outcome, at the same chunk. -/
theorem MicroNext.outcome_of_idle (hn : MicroNext c a s t) (busy : s.busy = true)
    (hc : s.currentChunk = some c) (idle : t.busy = false) :
    t.currentChunk = some c ∧
      t.code ∈ [.success, .deviceNotPresent, .busTimeout, .checksumMismatch] := by
  have hend {u : State} (hb : u.busy = true) (hu : u.currentChunk = some c)
      (idle : (u.endOfChunk c).busy = false) : (u.endOfChunk c).currentChunk = some c ∧
        (u.endOfChunk c).code ∈ [.success, .deviceNotPresent, .busTimeout, .checksumMismatch] := by
    rcases endOfChunk_next_or_complete u c with he | ⟨v, st, d, he, hv, hst⟩ <;> rw [he] at idle ⊢
    · simp [hb] at idle
    · exact ⟨hv.trans hu, hst⟩
  cases hn with
  | stopped _ | aborted _ => exact hend busy hc idle
  | _ => simp [busy] at idle

theorem runBus_cons (h : microStep a s = .next t) (as : List BusAnswer) :
    runBus (a :: as) s = runBus as t := by
  rw [runBus, h]

/-- Micro-steps after the end of a request change nothing (R160). -/
theorem runBus_of_idle (hc : s.currentChunk = some c) (hp : s.seq.phase = .idle) (as : List BusAnswer) :
    runBus as s = .next s := by
  induction as with
  | nil => rfl
  | cons a as ih =>
    have hstep := (MicroNext.idle (c := c) (a := a) hp).microStep_eq hc (by simp [hp])
    rw [runBus_cons hstep, ih]

/-- Settles O43, by induction on the answers: each micro-step goes on, keeps the invariant and the write part, and
lowers the bound or ends the request. -/
theorem everyRequestCompletes : Obligations.EveryRequestCompletes := by
  intro s as h busy written enough
  induction as generalizing s with
  | nil =>
    have hpos := remaining_pos h busy
    exact absurd enough (Nat.not_le.mpr hpos)
  | cons a as ih =>
    obtain ⟨u, hstep⟩ := h.exists_microStep_next busy written a
    obtain ⟨c, hc, hn⟩ := microStep_next hstep
    have hu : StateInv u := hn.stateInv h busy hc
    rw [runBus_cons hstep]
    cases hb : u.busy with
    | false =>
      obtain ⟨huc, hcode⟩ := hn.outcome_of_idle busy hc hb
      have hp := hu.phase_of_idle hb
      exact ⟨u, runBus_of_idle huc hp as, hb, hp, hcode⟩
    | true =>
      have hlt := remaining_lt_of_microNext hn h busy hc
      obtain ⟨hreq, -⟩ := hn.plan_eq
      refine ih u hu hb (fun i hi => hn.written (written i (hreq ▸ hi))) ?_
      rw [List.length_cons] at enough
      omega

end Sys2Proof.Machine
end

section
/-! PROOFS. The cycle of a chunk that does not fail on the bus (spec/42_transaction_driver.md R164, R174): the micro-steps
of its data bytes as one run, then those of its PEC byte and its stop. -/

namespace Sys2Proof.Machine

variable {s t u : State} {c : Chunk} {a : BusAnswer}

/-! ## Runs of micro-steps -/

theorem runBus_append {as : List BusAnswer} (h : runBus as s = .next u) (bs : List BusAnswer) :
    runBus (as ++ bs) s = runBus bs u := by
  induction as generalizing s with
  | nil => cases h; rfl
  | cons a as ih =>
    cases hm : microStep a s with
    | next v => rw [List.cons_append, runBus_cons hm]; exact ih (by rwa [runBus_cons hm] at h)
    | fault f => simp [runBus, hm] at h
    | refused r => simp [runBus, hm] at h

/-! ## Runs of bytes -/

/-- acc after bs are folded into it, with PEC on (R164). -/
def State.folded (s : State) (bs : List Byte) : Byte :=
  if s.seq.req.pec = true then crc8 s.acc bs else s.acc

theorem State.folded_append {bs : List Byte} (hreq : u.seq.req = s.seq.req)
    (hacc : u.acc = s.folded bs) (bs' : List Byte) : u.folded bs' = s.folded (bs ++ bs') := by
  cases hpec : s.seq.req.pec <;> simp [State.folded, hreq, hacc, hpec, crc8_append]

theorem Memory.holds_cons {m : Memory} {off : Nat} {b : Byte} {bs : List Byte} :
    m.holds off (b :: bs) ↔ m.read off = some b ∧ m.holds (off + 1) bs := by
  constructor
  · intro h
    refine ⟨h 0 b rfl, fun j x hx => ?_⟩
    rw [Nat.add_right_comm]
    exact h (j + 1) x hx
  · rintro ⟨hb, hbs⟩ j x hx
    cases j with
    | zero => cases hx; exact hb
    | succ j => rw [← Nat.add_assoc, Nat.add_right_comm]; exact hbs j x hx

/-! ## The data bytes -/

/-- The phase at index i of the chunk: a data byte, or what follows the last one (R166, R167). -/
def Chunk.phaseAt (c : Chunk) (pec : Bool) (i : Nat) : Phase :=
  if i = c.len then (if pec = true then .pec else .stop) else .data

theorem Chunk.phaseAt_of_lt {i : Nat} (h : i < c.len) (pec : Bool) : c.phaseAt pec i = .data := by
  simp [Chunk.phaseAt, h.ne]

/-- A request answered Ok, with the byte received. -/
def okEvent (q : BusRequest) (d : Option Byte) : BusEvent :=
  { request := q, response := some .ok, data := d }

/-- The state after the data bytes bs of the chunk, which these events show, with BUF being m. -/
def State.afterBytes (s : State) (c : Chunk) (es : List BusEvent) (bs : List Byte) (m : Memory) :
    State :=
  { s with
    busLog := s.busLog ++ es
    acc := s.folded bs
    buf := m
    seq :=
      { s.seq with
        i := s.seq.i + bs.length, phase := c.phaseAt s.seq.req.pec (s.seq.i + bs.length) } }

theorem State.afterBytes_nil (hp : s.seq.phase = c.phaseAt s.seq.req.pec s.seq.i) :
    s.afterBytes c [] [] s.buf = s := by
  simp [State.afterBytes, State.folded, crc8, ← hp]

theorem State.afterBytes_cons (s : State) (c : Chunk) (e : BusEvent) (b : Byte) (m m' : Memory)
    (es : List BusEvent) (bs : List Byte) :
    (s.afterBytes c [e] [b] m).afterBytes c es bs m' = s.afterBytes c (e :: es) (b :: bs) m' := by
  cases hpec : s.seq.req.pec <;>
    simp [State.afterBytes, State.folded, crc8, hpec, Nat.add_assoc, Nat.add_comm 1]

/-- What the port shows of the data bytes of a write chunk (R166). -/
def writeEvents (bs : List Byte) : List BusEvent := bs.map fun b => okEvent (.writeByte b) none

@[simp] theorem writeEvents_requests (bs : List Byte) :
    (writeEvents bs).map BusEvent.request = bs.map .writeByte := by
  simp [writeEvents, okEvent]

/-- A data byte of a write chunk answered Ok (R166). -/
theorem microStep_writeByte_ok {b : Byte} (hc : s.currentChunk = some c) (hd : c.dir = .W)
    (hp : s.seq.phase = .data) (inBuf : c.start + s.seq.i < s.caps.bufCap)
    (hb : s.buf.read (c.start + s.seq.i) = some b) (ok : a.resp = .ok) :
    microStep a s = .next (s.afterBytes c [okEvent (.writeByte b) none] [b] s.buf) := by
  obtain ⟨-, hwritten⟩ := writeDataPhase s c a hc hp hd inBuf
  obtain ⟨hok, -⟩ := hwritten b hb
  rw [hok ok, ok]
  rfl

/-- The data bytes of a write chunk, one micro-step each (R166). -/
theorem runBus_writeBytes {bs : List Byte} {as : List BusAnswer} (hc : s.currentChunk = some c)
    (hd : c.dir = .W) (hp : s.seq.phase = c.phaseAt s.seq.req.pec s.seq.i)
    (hlen : s.seq.i + bs.length = c.len) (inBuf : c.start + c.len ≤ s.caps.bufCap)
    (hbuf : s.buf.holds (c.start + s.seq.i) bs) (has : as.length = bs.length)
    (ok : ∀ a ∈ as, a.resp = .ok) :
    runBus as s = .next (s.afterBytes c (writeEvents bs) bs s.buf) := by
  induction bs generalizing s as with
  | nil =>
    obtain rfl := List.length_eq_zero_iff.mp has
    rw [writeEvents, List.map_nil, State.afterBytes_nil hp]
    rfl
  | cons b bs ih =>
    obtain ⟨a, as, rfl⟩ := List.exists_cons_of_length_eq_add_one has
    simp only [List.length_cons] at hlen has
    obtain ⟨hb, hbs⟩ := Memory.holds_cons.mp hbuf
    rw [Chunk.phaseAt_of_lt (by omega)] at hp
    have hstep := microStep_writeByte_ok hc hd hp (by omega) hb (ok a List.mem_cons_self)
    have hrest : s.seq.i + 1 + bs.length = c.len := by omega
    rw [runBus_cons hstep, ih (s := s.afterBytes c _ [b] s.buf) hc rfl hrest inBuf hbs (by omega)
      fun a h => ok a (List.mem_cons_of_mem _ h)]
    exact congrArg _ (State.afterBytes_cons ..)

/-- What the port shows of the data bytes of a read chunk: `last` is set on the cycle's final byte (R167). -/
def readEvents (pec : Bool) : List Byte → List BusEvent
  | [] => []
  | b :: bs => okEvent (.readByte (bs.isEmpty && !pec)) (some b) :: readEvents pec bs

theorem readEvents_requests (pec : Bool) {bs : List Byte} (h : bs ≠ []) :
    (readEvents pec bs).map BusEvent.request =
      List.replicate (bs.length - 1) (.readByte false) ++ [.readByte (!pec)] := by
  induction bs with
  | nil => exact absurd rfl h
  | cons b bs ih =>
    cases bs with
    | nil => simp [readEvents, okEvent]
    | cons b' bs =>
      rw [readEvents, List.map_cons, ih (by simp)]
      simp [okEvent, List.replicate_succ]

/-- An Ok answer that carries a byte. -/
def okAnswer (b : Byte) : BusAnswer := { resp := .ok, byte := b }

/-- The data bytes of a read chunk, one micro-step each (R167). -/
theorem runBus_readBytes {bs : List Byte} (hc : s.currentChunk = some c)
    (hd : c.dir = .R) (hp : s.seq.phase = c.phaseAt s.seq.req.pec s.seq.i)
    (hlen : s.seq.i + bs.length = c.len) (inBuf : c.start + c.len ≤ s.caps.bufCap) :
    ∃ m : Memory, m.holds (c.start + s.seq.i) bs ∧
      (∀ j, j < c.start + s.seq.i ∨ c.start + c.len ≤ j → m.read j = s.buf.read j) ∧
      runBus (bs.map okAnswer) s = .next
        (s.afterBytes c (readEvents s.seq.req.pec bs) bs m) := by
  induction bs generalizing s with
  | nil =>
    refine ⟨s.buf, by simp [Memory.holds], fun _ _ => rfl, ?_⟩
    rw [readEvents, State.afterBytes_nil hp]
    rfl
  | cons b bs ih =>
    rw [List.length_cons] at hlen
    rw [Chunk.phaseAt_of_lt (by omega)] at hp
    obtain ⟨hok, -⟩ := readDataPhase s c (okAnswer b) hc hp hd (by omega)
    obtain ⟨m, hm, hother, hstep⟩ := hok rfl
    have hlast : decide (s.seq.i + 1 = c.len ∧ s.seq.req.pec = false) =
        (bs.isEmpty && !s.seq.req.pec) := by
      cases bs with
      | nil => simp [show s.seq.i + 1 = c.len from hlen]
      | cons b' bs =>
        rw [List.length_cons] at hlen
        simp [show s.seq.i + 1 ≠ c.len by omega]
    rw [hlast] at hstep
    have hrest : s.seq.i + 1 + bs.length = c.len := by omega
    obtain ⟨m', hholds, hout, hrun⟩ :=
      ih (s := s.afterBytes c [okEvent (.readByte (bs.isEmpty && !s.seq.req.pec)) (some b)] [b] m)
        hc rfl hrest inBuf
    refine ⟨m', Memory.holds_cons.mpr ⟨?_, hholds⟩, fun j hj => ?_, ?_⟩
    · exact (hout _ (.inl (Nat.lt_succ_self _))).trans hm
    · have hj' : j < c.start + (s.seq.i + 1) ∨ c.start + c.len ≤ j := by omega
      exact (hout j hj').trans (hother j (by omega))
    · rw [List.map_cons, runBus_cons hstep]
      refine hrun.trans ?_
      exact congrArg _ (State.afterBytes_cons ..)

/-! ## The end of the cycle -/

/-- From s the cycle's last requests rs have been issued, with the failure f recorded; the end of the chunk follows. -/
structure StopsWith (s v : State) (rs : List BusRequest) (f : Option ChunkFail) : Prop where
  requests : v.requests = s.requests ++ rs
  acc : v.acc = s.acc
  buf : v.buf = s.buf
  busy : v.busy = s.busy
  seq : v.seq = { s.seq with fail := f, phase := .stop }

/-- The stop answered Ok (R170). -/
theorem runBus_stop (hc : s.currentChunk = some c) (hp : s.seq.phase = .stop) (ok : a.resp = .ok) :
    ∃ v, runBus [a] s = .next (v.endOfChunk c) ∧ StopsWith s v [.stopCycle] s.seq.fail := by
  have hstep := microStep_of_stop (f := s.seq.fail) a hc hp (by rw [ok]; simp [failOf])
  refine ⟨_, runBus_cons hstep [], ?_, rfl, rfl, rfl, by rw [← hp]; rfl⟩
  simp [State.requests, answered]

theorem StopsWith.after {v : State} {rs rs' : List BusRequest} {f : Option ChunkFail}
    (h : StopsWith s u rs f) (h' : StopsWith u v rs' f) : StopsWith s v (rs ++ rs') f where
  requests := by rw [h'.requests, h.requests, List.append_assoc]
  acc := h'.acc.trans h.acc
  buf := h'.buf.trans h.buf
  busy := h'.busy.trans h.busy
  seq := by rw [h'.seq, h.seq]

/-- The state after the PEC byte of the chunk, which e shows, with the failure f recorded (R168, R169). -/
def State.afterPec (s : State) (e : BusEvent) (f : Option ChunkFail) : State :=
  { s with busLog := s.busLog ++ [e], seq := { s.seq with fail := f, phase := .stop } }

/-- A PEC byte and the stop answered Ok. -/
theorem runBus_pec_stop {a' : BusAnswer} {e : BusEvent} {f : Option ChunkFail}
    (hc : s.currentChunk = some c) (hstep : microStep a s = .next (s.afterPec e f))
    (ok : a'.resp = .ok) :
    ∃ v, runBus [a, a'] s = .next (v.endOfChunk c) ∧
      StopsWith s v ([e.request] ++ [.stopCycle]) f := by
  have hpec : StopsWith s (s.afterPec e f) [e.request] f :=
    ⟨by simp [State.requests, State.afterPec], rfl, rfl, rfl, rfl⟩
  obtain ⟨v, hrun, hv⟩ := runBus_stop (s := s.afterPec e f) hc rfl ok
  exact ⟨v, (runBus_cons hstep [a']).trans hrun, hpec.after hv⟩

/-- The PEC byte of a write chunk, with PEC on, and its stop (R168, R170). -/
theorem runBus_writeEnd {as : List BusAnswer} (hc : s.currentChunk = some c) (hd : c.dir = .W)
    (hp : s.seq.phase = c.phaseAt s.seq.req.pec c.len) (hf : s.seq.fail = none)
    (has : as.length = pecCost s.seq.req.pec + 1) (ok : ∀ a ∈ as, a.resp = .ok) :
    ∃ v, runBus as s = .next (v.endOfChunk c) ∧
      StopsWith s v ((if s.seq.req.pec = true then [.writeByte s.acc] else []) ++ [.stopCycle])
        none := by
  rw [← hf]
  cases hpec : s.seq.req.pec with
  | false =>
    rw [hpec] at hp has
    obtain ⟨a, rfl⟩ := List.length_eq_one_iff.mp has
    exact runBus_stop hc (by simpa [Chunk.phaseAt] using hp) (ok a (by simp))
  | true =>
    rw [hpec] at hp has
    obtain ⟨a, a', rfl⟩ := List.length_eq_two.mp has
    have ha : a.resp = .ok := ok a (by simp)
    obtain ⟨hok, -⟩ := writePecPhase s c a hc (by simpa [Chunk.phaseAt] using hp) hd
    have hstep : microStep a s =
        .next (s.afterPec (okEvent (.writeByte s.acc) none) s.seq.fail) := by
      rw [hok ha, ha]; rfl
    exact runBus_pec_stop hc hstep (ok a' (by simp))

/-- The failure that the PEC byte p of a read chunk is, with PEC on (R169). -/
def State.pecFail (s : State) (p : Byte) : Option ChunkFail :=
  if s.seq.req.pec = true ∧ p ≠ s.acc then some .checksumMismatch else none

/-- The PEC byte of a read chunk, with PEC on, and its stop (R169, R170). -/
theorem runBus_readEnd (p y : Byte) (hc : s.currentChunk = some c) (hd : c.dir = .R)
    (hp : s.seq.phase = c.phaseAt s.seq.req.pec c.len) (hf : s.seq.fail = none) :
    ∃ v, runBus ((if s.seq.req.pec = true then [okAnswer p] else []) ++ [okAnswer y]) s =
        .next (v.endOfChunk c) ∧
      StopsWith s v ((if s.seq.req.pec = true then [.readByte true] else []) ++ [.stopCycle])
        (s.pecFail p) := by
  cases hpec : s.seq.req.pec with
  | false =>
    rw [hpec] at hp
    rw [show s.pecFail p = s.seq.fail by simp [State.pecFail, hpec, hf]]
    exact runBus_stop hc (by simpa [Chunk.phaseAt] using hp) rfl
  | true =>
    rw [hpec] at hp
    obtain ⟨hok, -⟩ := readPecPhase s c (okAnswer p) hc (by simpa [Chunk.phaseAt] using hp) hd
    have hfail : (if p = s.acc then s.seq.fail else some .checksumMismatch) = s.pecFail p := by
      by_cases he : p = s.acc <;> simp [State.pecFail, hpec, hf, he]
    have hstep : microStep (okAnswer p) s =
        .next (s.afterPec (okEvent (.readByte true) (some p)) (s.pecFail p)) := by
      rw [hok rfl, ← hfail]; rfl
    exact runBus_pec_stop hc hstep rfl

/-- A chunk that did not fail is counted, and the request is complete after the final chunk (R172). -/
theorem StopsWith.endOfChunk_counted {v : State} {rs : List BusRequest} (h : StopsWith s v rs none) :
    (v.endOfChunk c).seq.tx = s.seq.tx + dirBytesOf .W c ∧
      (v.endOfChunk c).seq.rx = s.seq.rx + dirBytesOf .R c ∧
      (c.final = true → (v.endOfChunk c).busy = false ∧ (v.endOfChunk c).seq.phase = .idle ∧
        (v.endOfChunk c).code = .success) ∧
      (c.final = false → (v.endOfChunk c).busy = s.busy ∧ (v.endOfChunk c).seq.phase = .addr ∧
        (v.endOfChunk c).seq.k = s.seq.k + 1 ∧ (v.endOfChunk c).seq.fail = none) := by
  have hf : v.seq.fail = none := by rw [h.seq]
  cases hl : c.final with
  | false => simp [State.endOfChunk_of_not_final hf hl, State.countChunk_seq, h.seq, h.busy]
  | true => simp [State.endOfChunk_of_final hf hl, State.countChunk_seq, h.seq]

/-- A read chunk with a wrong PEC byte is counted and ends the request (R172). -/
theorem StopsWith.endOfChunk_mismatch {v : State} {rs : List BusRequest}
    (h : StopsWith s v rs (some .checksumMismatch)) :
    (v.endOfChunk c).seq.tx = s.seq.tx ∧ (v.endOfChunk c).seq.rx = s.seq.rx + c.len ∧
      (v.endOfChunk c).busy = false ∧ (v.endOfChunk c).seq.phase = .idle ∧
      (v.endOfChunk c).code = .checksumMismatch := by
  have hf : v.seq.fail = some .checksumMismatch := by rw [h.seq]
  simp [State.endOfChunk_of_mismatch hf, h.seq]

/-! ## The whole cycle -/

/-- The address-phase bytes of the chunk (30_encoding.md R86). -/
def State.addrPhaseBytes (s : State) (c : Chunk) : List Byte :=
  addrBytes s.seq.req.addr s.seq.req.a10 c.dir.rw

/-- The state after the address phase of the chunk, answered Ok (R163). -/
def State.afterAddr (s : State) (c : Chunk) : State :=
  { s with
    busLog := s.busLog ++ [okEvent (.startCycle (s.addrPhaseBytes c)) none]
    acc := s.folded (s.addrPhaseBytes c)
    seq := { s.seq with i := 0, phase := .data } }

theorem microStep_startCycle_ok (hc : s.currentChunk = some c) (hp : s.seq.phase = .addr)
    (ok : a.resp = .ok) : microStep a s = .next (s.afterAddr c) := by
  obtain ⟨hok, -⟩ := addressPhase s c a hc hp
  rw [hok ok, ok]
  rfl

/-- The state after the address phase and the data bytes of the chunk. -/
def State.afterData (s : State) (c : Chunk) (es : List BusEvent) (bs : List Byte) (m : Memory) :
    State :=
  (s.afterAddr c).afterBytes c es bs m

section
variable (s : State) (c : Chunk) (es : List BusEvent) (bs : List Byte) (m : Memory)

@[simp] theorem State.afterData_busy : (s.afterData c es bs m).busy = s.busy := rfl
@[simp] theorem State.afterData_buf : (s.afterData c es bs m).buf = m := rfl
@[simp] theorem State.afterData_req : (s.afterData c es bs m).seq.req = s.seq.req := rfl
@[simp] theorem State.afterData_k : (s.afterData c es bs m).seq.k = s.seq.k := rfl
@[simp] theorem State.afterData_tx : (s.afterData c es bs m).seq.tx = s.seq.tx := rfl
@[simp] theorem State.afterData_rx : (s.afterData c es bs m).seq.rx = s.seq.rx := rfl

@[simp] theorem State.afterData_acc :
    (s.afterData c es bs m).acc = s.folded (s.addrPhaseBytes c ++ bs) :=
  State.folded_append (u := s.afterAddr c) (s := s) rfl rfl bs

@[simp] theorem State.afterData_requests :
    (s.afterData c es bs m).requests =
      s.requests ++ .startCycle (s.addrPhaseBytes c) :: es.map BusEvent.request := by
  simp [State.requests, State.afterData, State.afterBytes, State.afterAddr, okEvent]

theorem State.afterData_pecFail (p : Byte) :
    (s.afterData c es bs m).pecFail p =
      if s.seq.req.pec = true ∧ p ≠ crc8 s.acc (s.addrPhaseBytes c ++ bs) then
        some .checksumMismatch
      else none := by
  cases hpec : s.seq.req.pec <;> simp [State.pecFail, State.folded, hpec]

theorem State.afterData_phase (hlen : c.len = bs.length) :
    (s.afterData c es bs m).seq.phase = c.phaseAt s.seq.req.pec c.len := by
  simp [State.afterData, State.afterBytes, State.afterAddr, hlen]

end

theorem State.endOfChunk_requests (s : State) (c : Chunk) :
    (s.endOfChunk c).requests = s.requests := by
  rw [State.requests, State.endOfChunk_busLog, State.requests]

/-- What the whole cycle leaves: its requests, the checksum in acc, and BUF. -/
theorem StopsWith.endOfChunk_afterData {v : State} {es : List BusEvent} {bs : List Byte} {m : Memory}
    {rs : List BusRequest} {f : Option ChunkFail} (h : StopsWith (s.afterData c es bs m) v rs f) :
    (v.endOfChunk c).requests =
        s.requests ++ ([.startCycle (s.addrPhaseBytes c)] ++ es.map BusEvent.request ++ rs) ∧
      (v.endOfChunk c).acc = s.folded (s.addrPhaseBytes c ++ bs) ∧ (v.endOfChunk c).buf = m := by
  rw [State.endOfChunk_requests, State.endOfChunk_acc, State.endOfChunk_buf, h.requests, h.acc, h.buf]
  simp

/-- Settles O44: the address phase, the data bytes, and the PEC byte with the stop, one run after the other. -/
theorem writeChunkCycle : Obligations.WriteChunkCycle := by
  intro s c bs as hc hd hp hf hlen pos inBuf hbuf has ok sum
  have hab : s.addrPhaseBytes c = addrBytes s.seq.req.addr s.seq.req.a10 0#1 := by
    rw [State.addrPhaseBytes, hd]; rfl
  rw [chunkCost] at has
  obtain ⟨a, as, rfl⟩ := List.exists_cons_of_length_pos (l := as) (by omega)
  rw [List.length_cons] at has
  have hstart := microStep_startCycle_ok hc hp (ok a List.mem_cons_self)
  have hdata : runBus (as.take c.len) (s.afterAddr c) =
      .next (s.afterData c (writeEvents bs) bs s.buf) :=
    runBus_writeBytes (s := s.afterAddr c) hc hd (Chunk.phaseAt_of_lt pos _).symm
      ((Nat.zero_add _).trans hlen.symm) inBuf hbuf (by rw [List.length_take]; omega)
      fun a h => ok a (List.mem_cons_of_mem _ (List.mem_of_mem_take h))
  obtain ⟨v, hend, hv⟩ := runBus_writeEnd (s := s.afterData c (writeEvents bs) bs s.buf)
    (as := as.drop c.len) hc hd (State.afterData_phase _ _ _ _ _ hlen) hf
    (by rw [List.length_drop, State.afterData_req]; omega)
    fun a h => ok a (List.mem_cons_of_mem _ (List.mem_of_mem_drop h))
  have hrun : runBus (a :: as) s = .next (v.endOfChunk c) := by
    rw [runBus_cons hstart, ← List.take_append_drop c.len as, runBus_append hdata, hend]
  obtain ⟨hrequests, hacc, hbuf'⟩ := hv.endOfChunk_afterData
  obtain ⟨htx, hrx, hfinal, hnext⟩ := hv.endOfChunk_counted (c := c)
  refine ⟨_, hrun, ?_, ?_, fun j => by rw [hbuf'], ?_, ?_, hfinal, hnext⟩
  · rw [hrequests, hab]
    cases hpec : s.seq.req.pec <;> simp [writeCycle, State.folded, hpec, hab, sum]
  · rw [hacc, hab]
    rfl
  · simp [htx, dirBytesOf, hd]
  · simp [hrx, dirBytesOf, hd]

/-- Settles O45: the same for a read chunk, where the PEC byte decides how the chunk ends. -/
theorem readChunkCycle : Obligations.ReadChunkCycle := by
  intro s c ds p x y hc hd hp hf hlen pos inBuf sum ok as
  have hab : s.addrPhaseBytes c = addrBytes s.seq.req.addr s.seq.req.a10 1#1 := by
    rw [State.addrPhaseBytes, hd]; rfl
  have has : as = okAnswer x :: (ds.map okAnswer ++
      ((if s.seq.req.pec = true then [okAnswer p] else []) ++ [okAnswer y])) := by
    simp only [as, List.append_assoc]; rfl
  have hstart := microStep_startCycle_ok (a := okAnswer x) hc hp rfl
  obtain ⟨m, hholds, hout, hdata⟩ := runBus_readBytes (s := s.afterAddr c) (bs := ds) hc hd
    (Chunk.phaseAt_of_lt pos _).symm ((Nat.zero_add _).trans hlen.symm) inBuf
  obtain ⟨v, hend, hv⟩ := runBus_readEnd (s := s.afterData c (readEvents s.seq.req.pec ds) ds m) p y
    hc hd (State.afterData_phase _ _ _ _ _ hlen) hf
  have hrun : runBus as s = .next (v.endOfChunk c) := by
    rw [has, runBus_cons hstart, runBus_append hdata]
    exact hend
  obtain ⟨hrequests, hacc, hbuf⟩ := hv.endOfChunk_afterData
  refine ⟨?_, _, hrun, ?_, ?_, hbuf ▸ hholds, fun j hj => hbuf ▸ hout j hj, ?_⟩
  · cases hpec : s.seq.req.pec <;> simp [has, hpec, chunkCost, pecCost, hlen]
  · have hne : ds ≠ [] := List.length_pos_iff.mp (hlen ▸ pos)
    rw [hrequests, State.afterData_req, hab, readEvents_requests _ hne]
    simp [readCycle, hlen]
  · rw [hacc, hab]
    rfl
  · rw [State.afterData_pecFail, hab] at hv
    by_cases hbad : s.seq.req.pec = true ∧ p ≠ sum
    · rw [if_pos hbad] at hv
      obtain ⟨hon, hne⟩ := hbad
      obtain ⟨htx, hrx, hover⟩ := hv.endOfChunk_mismatch (c := c)
      refine ⟨htx, hrx, fun hok => absurd hok ?_, fun _ _ => hover⟩
      simp [hon, hne]
    · rw [if_neg hbad] at hv
      obtain ⟨htx, hrx, hfinal, hnext⟩ := hv.endOfChunk_counted (c := c)
      exact ⟨by simp [htx, dirBytesOf, hd], by simp [hrx, dirBytesOf, hd],
        fun _ => ⟨hfinal, hnext⟩, fun hon hne => absurd ⟨hon, hne⟩ hbad⟩

end Sys2Proof.Machine
end

section
/-! PROOFS. The counts with which a request ends (spec/43_facade.md R197 to R199, R201; spec/60_exceptions.md R222): how
many bytes the first chunks of a plan move in each direction, what the micro-step that ends a request counts, and the
two together. -/

namespace Sys2Proof.Machine

variable {s t : State} {c : Chunk} {a : BusAnswer} {p : Params} {w r k : Nat}

/-! ## Bytes of the first chunks of a plan -/

/-- The first j chunks of a part are full, as long as there are bytes. -/
theorem splitPart_take_sum {d : Dir} {limit fuel n : Nat} (pos : 1 ≤ limit) (start : Nat)
    (enough : n ≤ fuel) (j : Nat) :
    (((splitPart d limit fuel start n).take j).map Chunk.len).sum = min n (j * limit) := by
  induction fuel generalizing start n j with
  | zero => simp [Nat.le_zero.mp enough]
  | succ fuel ih =>
    by_cases hn : n = 0
    · simp [hn]
    · cases j with
      | zero => simp
      | succ j =>
        rw [splitPart, if_neg hn, List.take_succ_cons, List.map_cons, List.sum_cons,
          ih _ (by omega), Nat.succ_mul]
        dsimp only
        omega

/-- Counting by direction does not look at the mark of the final chunk. -/
theorem dirBytes_congr {d : Dir} {cs cs' : List Chunk}
    (h : cs.map Chunk.transfer = cs'.map Chunk.transfer) : dirBytes d cs = dirBytes d cs' := by
  induction cs generalizing cs' with
  | nil => rw [List.map_eq_nil_iff.mp h.symm]
  | cons c cs ih =>
    obtain ⟨c', cs', rfl, hc, hcs⟩ := List.map_eq_cons_iff.mp h.symm
    obtain ⟨hdir, hlen⟩ := Chunk.transfer_eq_iff.mp hc
    rw [dirBytes_cons, dirBytes_cons, ih hcs.symm, dirBytesOf, dirBytesOf, hdir, hlen]

theorem dirBytes_of_same_dir {d : Dir} {cs : List Chunk} (h : ∀ c ∈ cs, c.dir = d) :
    dirBytes d cs = (cs.map Chunk.len).sum := by
  rw [dirBytes, List.filter_eq_self.mpr fun c hc => decide_eq_true (h c hc)]

theorem dirBytes_of_other_dir {d : Dir} {cs : List Chunk} (h : ∀ c ∈ cs, c.dir ≠ d) :
    dirBytes d cs = 0 := by
  rw [dirBytes, List.filter_eq_nil_iff.mpr fun c hc => by simp [h c hc]]
  rfl

/-- The write chunks of a plan, ceil(w / MAX_TX) of them (41_segmenter.md R143 (d)). -/
def writeChunks (p : Params) (w : Nat) : Nat := (w + p.maxTx - 1) / p.maxTx

/-- The first k chunks of a plan: its write chunks up to k, and then as many of its read chunks. -/
theorem dirBytes_take_plan (h : p.legal = true) (d : Dir) (w r k : Nat) :
    dirBytes d ((chunkPlan p w r).take k) =
      dirBytes d ((splitPart .W p.maxTx w 0 w).take k) +
        dirBytes d ((splitPart .R p.maxRx r w r).take (k - writeChunks p w)) := by
  obtain ⟨htx, -⟩ := legal_bounds h
  rw [writeChunks, ← splitPart_length (d := .W) htx 0 le_rfl, ← dirBytes_append, ← List.take_append]
  refine dirBytes_congr ?_
  rw [List.map_take, chunkPlan, markFinal_map Chunk.transfer (fun _ _ => rfl), List.map_take]

/-- Once every write chunk is past, the whole write part is sent. -/
theorem writeBytes_take_plan (h : p.legal = true) (hk : writeChunks p w ≤ k) :
    dirBytes .W ((chunkPlan p w r).take k) = w := by
  obtain ⟨htx, hrx, -⟩ := legal_bounds h
  have hlength : (splitPart .W p.maxTx w 0 w).length ≤ k := by
    rwa [splitPart_length htx 0 le_rfl]
  have hreads : dirBytes .W ((splitPart .R p.maxRx r w r).take (k - writeChunks p w)) = 0 :=
    dirBytes_of_other_dir fun c hc => by
      simp [(splitPart_mem hrx (List.mem_of_mem_take hc)).1]
  rw [dirBytes_take_plan h, hreads, List.take_of_length_le hlength,
    dirBytes_of_same_dir fun c hc => (splitPart_mem htx hc).1, splitPart_sum htx 0 le_rfl]
  rfl

/-- The read chunks before k are full, as long as there are bytes to receive. -/
theorem readBytes_take_plan (h : p.legal = true) (w r k : Nat) :
    dirBytes .R ((chunkPlan p w r).take k) = min r ((k - writeChunks p w) * p.maxRx) := by
  obtain ⟨htx, hrx, -⟩ := legal_bounds h
  have hwrites : dirBytes .R ((splitPart .W p.maxTx w 0 w).take k) = 0 :=
    dirBytes_of_other_dir fun c hc => by
      simp [(splitPart_mem htx (List.mem_of_mem_take hc)).1]
  have hreads : ∀ c ∈ (splitPart .R p.maxRx r w r).take (k - writeChunks p w), c.dir = .R :=
    fun c hc => (splitPart_mem hrx (List.mem_of_mem_take hc)).1
  rw [dirBytes_take_plan h, hwrites, dirBytes_of_same_dir hreads,
    splitPart_take_sum hrx w le_rfl, Nat.zero_add]

theorem writeChunks_le_plan_length (h : p.legal = true) (w r : Nat) :
    writeChunks p w ≤ (chunkPlan p w r).length := by
  obtain ⟨htx, -⟩ := legal_bounds h
  rw [chunkPlan, markFinal_length, List.length_append, splitPart_length htx 0 le_rfl]
  exact Nat.le_add_right _ _

/-- The whole plan moves w bytes one way and r the other. -/
theorem dirBytes_plan (h : p.legal = true) (w r : Nat) :
    dirBytes .W (chunkPlan p w r) = w ∧ dirBytes .R (chunkPlan p w r) = r := by
  have hw := writeBytes_take_plan (r := r) h (writeChunks_le_plan_length h w r)
  rw [List.take_length] at hw
  have hsum := dirBytes_write_add_read (chunkPlan p w r)
  rw [chunkPlan_sum h] at hsum
  omega

/-- A read chunk stands after every write chunk. -/
theorem writeChunks_le_of_read_chunk (h : p.legal = true) (hc : (chunkPlan p w r)[k]? = some c)
    (hd : c.dir = .R) : writeChunks p w ≤ k := by
  obtain ⟨htx, -⟩ := legal_bounds h
  obtain ⟨ws, rs, hplan, hws, -⟩ := chunkPlan_parts p w r
  by_contra hk
  have hlength : k < ws.length := by rw [part_length hws htx]; exact Nat.not_le.mp hk
  rw [hplan, List.getElem?_append_left hlength] at hc
  have hwrite := (part_mem hws htx (List.mem_of_getElem? hc)).1
  rw [hd] at hwrite
  cases hwrite

/-- The read chunks before a read chunk are all full, since it still has bytes to receive. -/
theorem readBytes_before_read_chunk (h : p.legal = true) (hc : (chunkPlan p w r)[k]? = some c)
    (hd : c.dir = .R) :
    dirBytes .R ((chunkPlan p w r).take k) = (k - writeChunks p w) * p.maxRx := by
  have hk := writeChunks_le_of_read_chunk h hc hd
  have hpos := one_le_len_of_chunkPlan h hc
  have hnext := dirBytes_take_succ (d := .R) hc
  rw [readBytes_take_plan h, readBytes_take_plan h, dirBytesOf, if_pos hd] at hnext
  rw [readBytes_take_plan h]
  omega

/-! ## The micro-step that ends a request -/

/-- Completion counts what was moved, when it fits its 16 bits (43_facade.md R201). -/
theorem State.complete_counts_toNat {st : Code} {d : Dir} (h : st = .success ∨ d = .R)
    (fits : s.seq.tx + s.seq.rx ≤ 256) :
    (s.complete st d).xferCount.toNat = s.seq.tx + s.seq.rx ∧
      (s.complete st d).rxCount.toNat = s.seq.rx := by
  obtain ⟨hx, hr⟩ := s.complete_counts h
  rw [hx, hr, BitVec.toNat_ofNat, BitVec.toNat_ofNat]
  omega

/-- Every way in which a request with tx and rx bytes counted before its chunk c ends in t (43_facade.md R201). -/
inductive RequestEnd (c : Chunk) (tx rx : Nat) (t : State) : Prop
  /-- The final chunk did not fail and is counted. -/
  | success (hl : c.final = true) (code : t.code = .success)
      (sent : t.xferCount.toNat = tx + dirBytesOf .W c + t.rxCount.toNat)
      (received : t.rxCount.toNat = rx + dirBytesOf .R c)
  /-- A write chunk failed on the bus. -/
  | writeFailed (hd : c.dir = .W) (code : t.code ≠ .success)
      (counts : t.xferCount = 0#16 ∧ t.rxCount = 0#16)
  /-- A read chunk failed on the bus and is not counted. -/
  | readFailed (hd : c.dir = .R) (code : t.code ≠ .success ∧ t.code ≠ .checksumMismatch)
      (sent : t.xferCount.toNat = tx + t.rxCount.toNat) (received : t.rxCount.toNat = rx)
  /-- A read chunk had a wrong PEC byte and is counted. -/
  | mismatch (hd : c.dir = .R) (code : t.code = .checksumMismatch)
      (sent : t.xferCount.toNat = tx + t.rxCount.toNat) (received : t.rxCount.toNat = rx + c.len)

/-- A chunk that failed on the bus ends the request in one of two ways. -/
theorem requestEnd_busFail {f : ChunkFail} (hbus : f ≠ .checksumMismatch)
    (fits : s.seq.tx + s.seq.rx ≤ 256) :
    RequestEnd c s.seq.tx s.seq.rx (s.complete f.code c.dir) := by
  have hcode : f.code ≠ .success ∧ f.code ≠ .checksumMismatch := by
    cases f <;> simp_all [ChunkFail.code]
  cases hd : c.dir with
  | W => exact .writeFailed hd hcode.1 (s.complete_counts_write hcode.1)
  | R =>
    obtain ⟨hx, hr⟩ := s.complete_counts_toNat (st := f.code) (.inr rfl) fits
    exact .readFailed hd hcode (by rw [hx, hr]) hr

/-- A chunk's end that ends the request. -/
theorem requestEnd_endOfChunk (busy : s.busy = true)
    (mismatch : s.seq.fail = some .checksumMismatch → c.dir = .R)
    (fits : (s.seq.tx + dirBytesOf .W c) + (s.seq.rx + dirBytesOf .R c) ≤ 256)
    (idle : (s.endOfChunk c).busy = false) :
    RequestEnd c s.seq.tx s.seq.rx (s.endOfChunk c) := by
  cases hf : s.seq.fail with
  | none =>
    cases hl : c.final with
    | false => simp [State.endOfChunk_of_not_final hf hl, busy] at idle
    | true =>
      rw [State.endOfChunk_of_final hf hl]
      obtain ⟨hx, hr⟩ := (s.countChunk c).complete_counts_toNat (d := c.dir) (.inl rfl)
        (by rw [State.countChunk_seq]; exact fits)
      rw [State.countChunk_seq] at hx hr
      exact .success hl rfl (by rw [hx, hr]) hr
  | some f =>
    by_cases hm : f = .checksumMismatch
    · subst hm
      have hd := mismatch hf
      rw [State.endOfChunk_of_mismatch hf]
      have hfits : s.seq.tx + (s.seq.rx + c.len) ≤ 256 := by
        simpa [dirBytesOf, hd] using fits
      obtain ⟨hx, hr⟩ := State.complete_counts_toNat (st := .checksumMismatch) (.inr rfl) hfits
        (s := s.setSeq { s.seq with rx := s.seq.rx + c.len })
      exact .mismatch hd rfl (by rw [hx, hr]; rfl) hr
    · rw [State.endOfChunk_of_busFail hf hm]
      exact requestEnd_busFail hm (by omega)

/-- A failure of a PEC byte that is recorded at the stop is a read chunk's (R169). -/
theorem dir_eq_read_of_mismatch (h : RequestInv s) (hc : s.currentChunk = some c)
    (hf : s.seq.fail = some .checksumMismatch) : c.dir = .R := by
  have hfit := h.phaseFits hc
  cases hp : s.seq.phase <;> simp_all [phaseFits]

/-- The inversion lemma of the micro-step that ends a request. -/
theorem MicroNext.requestEnd (hn : MicroNext c a s t) (h : StateInv s) (busy : s.busy = true)
    (hc : s.currentChunk = some c) (idle : t.busy = false) :
    RequestEnd c s.seq.tx s.seq.rx t := by
  have hq := h.request busy
  obtain ⟨-, -, hmax, -⟩ := legal_bounds h.legal
  have fits := (hq.moved_le h.legal hc).trans hmax
  cases hn with
  | stopped _ =>
    exact requestEnd_endOfChunk
      (s := (s.issue .stopCycle a).setSeq { s.seq with fail := s.seq.fail.or (failOf a.resp) }) busy
      (fun hm => dir_eq_read_of_mismatch hq hc (or_failOf_eq_mismatch hm)) fits idle
  | aborted _ =>
    exact requestEnd_endOfChunk (s := s.issue .stopCycle a) busy
      (fun hm => dir_eq_read_of_mismatch hq hc hm) fits idle
  | _ => simp [busy] at idle

/-! ## The counts in terms of the request -/

/-- When the last chunk is counted, the request's lengths are. -/
theorem RequestInv.counted_of_final (h : RequestInv s) (legal : s.caps.legal = true)
    (hc : s.currentChunk = some c) (hl : c.final = true) :
    s.seq.tx + dirBytesOf .W c = s.seq.req.wlen.toNat ∧
      s.seq.rx + dirBytesOf .R c = s.seq.req.rlen.toNat := by
  have hck := h.plan_current hc
  have hlast := (chunkPlan_final_iff legal hck).mp hl
  rw [h.sent, h.received, h.plan, ← dirBytes_take_succ hck, ← dirBytes_take_succ hck, hlast,
    List.take_length]
  exact dirBytes_plan legal _ _

/-- At a read chunk the write part is sent, and the read chunks before it were full. -/
theorem RequestInv.counted_at_read (h : RequestInv s) (legal : s.caps.legal = true)
    (hc : s.currentChunk = some c) (hd : c.dir = .R) :
    writeChunks s.caps s.seq.req.wlen.toNat ≤ s.seq.k ∧ s.seq.tx = s.seq.req.wlen.toNat ∧
      s.seq.rx = (s.seq.k - writeChunks s.caps s.seq.req.wlen.toNat) * s.caps.maxRx ∧
      s.seq.rx + c.len =
        min s.seq.req.rlen.toNat
          ((s.seq.k - writeChunks s.caps s.seq.req.wlen.toNat + 1) * s.caps.maxRx) := by
  have hck := h.plan_current hc
  have hk := writeChunks_le_of_read_chunk legal hck hd
  have hlen : c.len = dirBytesOf .R c := by rw [dirBytesOf, if_pos hd]
  refine ⟨hk, ?_, ?_, ?_⟩
  · rw [h.sent, h.plan, writeBytes_take_plan legal hk]
  · rw [h.received, h.plan, readBytes_before_read_chunk legal hck hd]
  · rw [h.received, h.plan, hlen, ← dirBytes_take_succ hck, readBytes_take_plan legal,
      Nat.sub_add_comm hk]

/-- Settles O46: what the ending micro-step counts, in terms of the request's lengths and the plan's limits. -/
theorem countsAtCompletion : Obligations.CountsAtCompletion := by
  intro s t a c h busy hc hstep idle wlen rlen wc
  obtain ⟨c', hc', hn⟩ := microStep_next hstep
  obtain rfl : c = c' := by simpa [hc] using hc'
  have hq := h.request busy
  cases hn.requestEnd h busy hc idle with
  | success hl code sent received =>
    obtain ⟨htx, hrx⟩ := hq.counted_of_final h.legal hc hl
    refine ⟨fun _ => ⟨?_, received.trans hrx⟩, fun hne => absurd code hne, fun hne => absurd code hne⟩
    rw [sent, received, htx, hrx]
  | writeFailed hd code counts =>
    exact ⟨fun hs => absurd hs code, fun _ _ => counts, fun _ hr => by simp [hd] at hr⟩
  | readFailed hd code sent received =>
    obtain ⟨hk, htx, hrx, -⟩ := hq.counted_at_read h.legal hc hd
    refine ⟨fun hs => absurd hs code.1, fun _ hw => by simp [hd] at hw, fun _ _ => ⟨?_, hk,
      fun _ => received.trans hrx, fun hm => absurd hm code.2⟩⟩
    rw [sent, htx]
  | mismatch hd code sent received =>
    obtain ⟨hk, htx, -, hrx⟩ := hq.counted_at_read h.legal hc hd
    refine ⟨fun hs => by simp [hs] at code, fun _ hw => by simp [hd] at hw, fun _ _ => ⟨?_, hk,
      fun hne => absurd code hne, fun _ => received.trans hrx⟩⟩
    rw [sent, htx]

end Sys2Proof.Machine
end

section
/-! PROOFS. The facade (spec/43_facade.md R191 to R196, R203, R204): the acceptance of a word, lost while BUSY = 1 and
run in the same step otherwise; NOP, RESET and QUERY_CAPS; START acceptance; and a write that no target acknowledges. -/

namespace Sys2Proof.Machine

variable {s t : State} {i : Instr} {w : Word}

/-! ## Acceptance of a word -/

theorem commandWrite_of_busy (busy : s.busy = true) :
    commandWrite w s = .next { s with ovr := true } :=
  if_pos busy

theorem commandWrite_of_decode (idle : s.busy = false) (h : decode w = .ok i) :
    commandWrite w s = exec i { s with cmd := w, ovr := false } := by
  rw [commandWrite_of_idle idle, acceptCommand, h]
  rfl

/-- A word that does not decode changes only CODE, beside its acceptance (R203). -/
theorem commandWrite_of_decode_error {e : DecodeReject} (idle : s.busy = false)
    (h : decode w = .error e) :
    commandWrite w s = .next { s with cmd := w, ovr := false, code := .illegalCommand } := by
  rw [commandWrite_of_idle idle, acceptCommand, h]
  rfl

/-- A reserved opcode changes only CODE, whatever its body (R203). -/
theorem exec_of_not_command (hc : isCommand i = false) (s : State) :
    exec i s = .next { s with code := .illegalCommand } := by
  cases i with
  | reserved9 _ | reservedAB _ | reservedCF _ => rfl
  | _ => cases hc

/-- Settles O15: the word fails R88, or its opcode is reserved. -/
theorem illegalWordsChangeOnlyCode : Obligations.IllegalWordsChangeOnlyCode := by
  intro s w idle hw
  rcases Nat.lt_or_ge (opField w).toNat 9 with op | op
  · exact commandWrite_of_not_wordWellFormed idle (Nat.le_of_lt_succ op) hw
  · obtain ⟨i, hi, hc⟩ := exists_decodes_of_opField_ge op
    rw [commandWrite_of_decode idle hi.decode_eq, exec_of_not_command hc]

/-! ## A step that writes CMD -/

/-- A 32-bit write at offset 0x000 is a write to CMD (10_state.md R45). -/
theorem hostStmt_w32_cmd (w : Word) (s : State) :
    hostStmt (w32 0x000#9 w) s = commandWrite w s := rfl

/-- The host's step at a write to CMD moves past it first. -/
theorem hostStep_w32_cmd (hst : s.host.prog[s.host.pc]? = some (w32 0x000#9 w)) :
    hostStep s = commandWrite w { s with host := { s.host with pc := s.host.pc + 1 } } := by
  rw [hostStep_of_statement hst, hostStmt_w32_cmd]
  rfl

/-- Settles O16: the host is the one agent that can move, and its statement is the acceptance of the word. -/
theorem stepRunsDecodedCommand : Obligations.StepRunsDecodedCommand := by
  intro s w hp idle hst
  have hstep : step s = commandWrite w { s with host := { s.host with pc := s.host.pc + 1 } } := by
    rw [step_of_host_enabled hp (hostEnabled_of_statement hst) (sequencerEnabled_of_not_busy idle),
      hostStep_w32_cmd hst]
  rw [hstep]
  exact ⟨fun i h => commandWrite_of_decode idle h, fun e h => commandWrite_of_decode_error idle h⟩

/-- Settles O17: the write sets OVR, also as the host's turn in a step. -/
theorem commandWhileBusyIsLost : Obligations.CommandWhileBusyIsLost := by
  intro s w busy
  refine ⟨commandWrite_of_busy busy, fun rest hp hph hsch hst => ?_⟩
  rw [step_of_both_enabled hp (hostEnabled_of_statement hst)
    (sequencerEnabled_eq_true_iff.mpr ⟨busy, hph⟩) hsch]
  exact (hostStep_w32_cmd (s := { s with schedule := rest }) hst).trans (commandWrite_of_busy busy)

/-! ## NOP, RESET and QUERY_CAPS -/

theorem commandWrite_formatN_illegal (idle : s.busy = false) (op : (opField w).toNat ≤ 2)
    (h : w.extractLsb' 0 28 ≠ 0#28) :
    commandWrite w s = .next { s with cmd := w, ovr := false, code := .illegalCommand } :=
  commandWrite_of_not_wordWellFormed idle (by omega)
    (Bool.eq_false_iff.mpr (mt (wordWellFormed_formatN op).mp h))

/-- Settles O7: the rule, and the two ways a word of its opcode is accepted. -/
theorem nopChangesNothing : Obligations.NopChangesNothing := by
  intro s
  refine ⟨rfl, fun idle => ⟨?_, fun w op h => ?_⟩⟩
  · exact commandWrite_encode (i := .nop) idle rfl
  · exact commandWrite_formatN_illegal idle (by simp [op]) h

/-- Settles O8: the rule, and the three fates of a word of its opcode. -/
theorem resetClearsResultsAndResetsBus : Obligations.ResetClearsResultsAndResetsBus := by
  intro s
  refine ⟨rfl, fun idle => ⟨?_, fun w op h => ?_⟩, commandWrite_of_busy⟩
  · exact commandWrite_encode (i := .reset) idle rfl
  · exact commandWrite_formatN_illegal idle (by simp [op]) h

/-- A capability below 2^16 is what its register reads (10_state.md R27). -/
theorem toNat_capability {n : Nat} (h : n < 2 ^ 16) : ((BitVec.ofNat 16 n).setWidth 32).toNat = n := by
  rw [BitVec.toNat_setWidth_of_le (by decide), BitVec.toNat_ofNat, Nat.mod_eq_of_lt h]

/-- Settles O9: the rule, the two ways a word of its opcode is accepted, and the registers of legal capabilities. -/
theorem queryCapsSucceeds : Obligations.QueryCapsSucceeds := by
  intro s
  refine ⟨rfl, fun idle => ⟨?_, fun w op h => ?_⟩, fun legal => ?_⟩
  · exact commandWrite_encode (i := .queryCaps) idle rfl
  · exact commandWrite_formatN_illegal idle (by simp [op]) h
  · simp only [Params.legal, decide_eq_true_eq] at legal
    exact ⟨toNat_capability (by omega), toNat_capability (by omega), toNat_capability (by omega),
      toNat_capability (by omega)⟩

/-! ## START acceptance -/

/-- With any parameters, a part is empty exactly when it has no byte. -/
theorem splitPart_eq_nil_iff {d : Dir} {limit start n : Nat} :
    splitPart d limit n start n = [] ↔ n = 0 := by
  cases n <;> simp [splitPart]

/-- With any parameters, a plan is empty exactly when the request has no byte. -/
theorem chunkPlan_eq_nil_iff {p : Params} {w r : Nat} : chunkPlan p w r = [] ↔ w + r = 0 := by
  rw [← List.length_eq_zero_iff, chunkPlan, markFinal_length, List.length_eq_zero_iff,
    List.append_eq_nil_iff, splitPart_eq_nil_iff, splitPart_eq_nil_iff, Nat.add_eq_zero_iff]

/-- An address of 7 bits, or any with A10 = 1, passes R88 (d). -/
theorem addrFits_of_seven_bits {a10 : Bool} {addr : BitVec 10}
    (h : a10 = false → addr.toNat < 128) : addrFits a10 addr = true := by
  cases a10 with
  | false => exact addrFits_seven_bits_iff.mpr (h rfl)
  | true => rfl

/-- Settles O10, by the checks of START acceptance in their order. -/
theorem startAcceptance : Obligations.StartAcceptance := by
  intro s i q hq haddr
  have hengine (engine : q.pec = true → s.caps.hasPec = true) :
      ¬ (q.pec = true ∧ s.caps.hasPec = false) := fun ⟨hpec, hno⟩ => by simp [engine hpec] at hno
  rw [exec_start hq (addrFits_of_seven_bits haddr), startRequest_eq, totalLen]
  refine ⟨fun tooLong => ?_, fun fits pec noEngine => ?_, fun engine empty => ?_,
    fun engine pos fits => ?_⟩
  · rw [if_pos tooLong]
    rfl
  · rw [if_neg (by omega), if_pos ⟨pec, noEngine⟩]
    rfl
  · have hplan : chunkPlan s.caps q.wlen.toNat q.rlen.toNat = [] := chunkPlan_eq_nil_iff.mpr empty
    rw [if_neg (by omega), if_neg (hengine engine), if_pos hplan, State.latchRequest, hplan]
    rfl
  · rw [if_neg (by omega), if_neg (hengine engine), if_neg (mt chunkPlan_eq_nil_iff.mp (by omega))]
    rfl

/-! ## A write that no target acknowledges -/

/-- A request that begins has a current chunk. -/
theorem currentChunk_of_begins (idle : s.busy = false) (h : exec i s = .next t)
    (busy : t.busy = true) : ∃ c, t.currentChunk = some c := by
  cases exec_next h with
  | begin q _ _ _ _ nonempty =>
    exact ⟨_, List.getElem?_eq_getElem (List.length_pos_iff.mpr nonempty)⟩
  | same | outcome _ | checksum _ _ _ | reset _ | refuse _ | latch _ _ _ _ =>
    cases busy.symm.trans idle

/-- With any parameters, the first chunk of a write-only plan is a write chunk. -/
theorem dir_of_writeOnly_plan {p : Params} {w : Nat} {c : Chunk}
    (hc : (chunkPlan p w 0)[0]? = some c) : c.dir = .W := by
  obtain ⟨c₀, h₀, rfl⟩ := chunkPlan_getElem?_eq_some hc
  have hd : c₀.dir = .W := by
    cases w with
    | zero => simp at h₀
    | succ n =>
      rw [splitPart_zero, List.append_nil, splitPart, if_neg (Nat.add_one_ne_zero n)] at h₀
      cases h₀; rfl
  split_ifs <;> exact hd

/-- A chunk whose startCycle is not acknowledged ends the request at the abort stop, whatever its answer (R163, R171). -/
theorem runBus_of_noAck {c : Chunk} {a : BusAnswer} (a' : BusAnswer) (hc : s.currentChunk = some c)
    (hp : s.seq.phase = .addr) (noAck : a.resp = .noAck) :
    ∃ t, runBus [a, a'] s = .next t ∧ t.code = .deviceNotPresent ∧ t.busy = false ∧
      (c.dir = .W → t.xferCount = 0#16 ∧ t.rxCount = 0#16) ∧
      t.busLog = s.busLog ++
        [{ request := .startCycle (addrBytes s.seq.req.addr s.seq.req.a10 c.dir.rw)
           response := some .noAck, data := none },
         { request := .stopCycle, response := some a'.resp, data := none }] := by
  obtain ⟨-, hfail, -⟩ := addressPhase s c a hc hp
  refine ⟨_, (runBus_cons (hfail noAck) [a']).trans (runBus_cons (Driver.abortStopPhase _ c a'
    (by exact hc) (by rfl) _ _ (.inl ⟨rfl, rfl⟩) (by rfl)) []), rfl, rfl,
    fun hd => ⟨if_pos hd, if_pos hd⟩, ?_⟩
  simp [noAck]

/-- Settles O47: the first chunk of a START_W is a write chunk, and its address phase fails. -/
theorem unacknowledgedWrite : Obligations.UnacknowledgedWrite := by
  intro s u pec a10 addr wlen a a' idle h busy noAck
  obtain ⟨c, hc⟩ := currentChunk_of_begins idle h busy
  obtain rfl := exec_begins idle rfl h busy
  have hd : c.dir = .W := dir_of_writeOnly_plan hc
  obtain ⟨t, hrun, hcode, hidle, hcounts, hlog⟩ := runBus_of_noAck a' hc rfl noAck
  obtain ⟨hxfer, hrx⟩ := hcounts hd
  rw [hd] at hlog
  exact ⟨t, hrun, hcode, hidle, hxfer, hrx, hlog⟩

end Sys2Proof.Machine
end

section
/-! PROOFS. Where a run can stop (spec/60_exceptions.md R237; spec/20_memory.md R63; spec/70_reset_and_hazards.md R251):
only a CRC run of BUF among the commands, an unsupported access among the other host statements, and the data phase of a
write chunk among the micro-steps of a coherent request. -/

namespace Sys2Proof.Machine

variable {s t : State} {i : Instr} {o : Host.Outcome State Fault Refusal}

/-! ## The commands -/

/-- START acceptance always goes on, with each outcome of its checks (43_facade.md R196). -/
theorem exists_exec_start_next {q : Request} (hq : startOf i = some q) (s : State) :
    ∃ t, exec i s = .next t := by
  cases ha : addrFits q.a10 q.addr with
  | false => exact ⟨_, exec_start_illegal hq ha s⟩
  | true =>
    rw [exec_start hq ha]
    rcases startRequest_cases q s with ⟨-, e⟩ | ⟨-, -, -, e⟩ | ⟨-, -, -, e⟩ | ⟨-, -, -, e⟩ <;>
      exact ⟨_, e⟩

/-- A command goes on, or it is CRC_FINALIZE or CRC_VERIFY, a run of BUF. -/
theorem exec_next_or_crcRun (i : Instr) (s : State) :
    (∃ t, exec i s = .next t) ∨
    ∃ v off len init judge, (i = .crcFinalize v off len ∨ i = .crcVerify v off len) ∧
      exec i s = crcRun init off len judge s := by
  cases i with
  | startW _ _ _ _ | startR _ _ _ _ | startWR _ _ _ _ _ => exact .inl (exists_exec_start_next rfl s)
  | crcUpdate prev data =>
    rw [exec_crcUpdate, execCrcUpdate]
    split_ifs <;> exact .inl ⟨_, rfl⟩
  | crcFinalize init off len =>
    exact .inr ⟨init, off, len, _, _, .inl rfl, exec_crcFinalize init off len s⟩
  | crcVerify expect off len =>
    exact .inr ⟨expect, off, len, _, _, .inr rfl, exec_crcVerify expect off len s⟩
  | _ => exact .inl ⟨_, rfl⟩

/-- Settles O19: every other command goes on, and a CRC run stops only on an unwritten byte of its run. -/
theorem commandsStopOnlyOnUnwrittenBytes : Obligations.CommandsStopOnlyOnUnwrittenBytes := by
  intro i s
  rcases exec_next_or_crcRun i s with ⟨t, hnext⟩ | ⟨v, off, len, init, judge, hi, hrun⟩
  · rw [hnext]
    exact ⟨nofun, nofun⟩
  · rw [hrun]
    refine ⟨crcRun_stops.1, fun f hf => ?_⟩
    obtain ⟨j, hj, unwritten, hcause⟩ := crcRun_stops.2 f hf
    exact ⟨v, off, len, j, hi, hj, unwritten, hcause⟩

/-! ## The stops that 60_exceptions.md R237 allows -/

/-- The outcome o of a step from s is no refusal, and a fault only on an unsupported host access or on a read of a BUF
byte that nothing has written in s. -/
def StopsOnlyAsSpecified (s : State) (o : Host.Outcome State Fault Refusal) : Prop :=
  (∀ r, o ≠ .refused r) ∧
  ∀ f, o = .fault f →
    (∃ off width, f = .hostAccessError off width) ∨
    ∃ i < s.caps.bufCap, f = .unwrittenRead i ∧ s.buf.read i = none

theorem stopsOnlyAsSpecified_next (s t : State) : StopsOnlyAsSpecified s (.next t) :=
  ⟨nofun, nofun⟩

theorem stopsOnlyAsSpecified_hostAccessError (s : State) (off : BitVec 9) (width : Nat) :
    StopsOnlyAsSpecified s (.fault (.hostAccessError off width)) :=
  ⟨nofun, fun _ hf => .inl ⟨off, width, (Host.Outcome.fault.inj hf).symm⟩⟩

/-- Only BUF and its capacity matter to the allowed stops. -/
theorem StopsOnlyAsSpecified.congr (h : StopsOnlyAsSpecified t o) (hcaps : t.caps = s.caps)
    (hbuf : t.buf = s.buf) : StopsOnlyAsSpecified s o := by
  unfold StopsOnlyAsSpecified at h ⊢
  rwa [hcaps, hbuf] at h

/-! ## The host -/

/-- The length check precedes the reads, so a run that stops lies inside BUF (60_exceptions.md R224). -/
theorem run_le_bufCap_of_crcRun_fault {init : Byte} {off len : BitVec 8} {judge : Byte → Code} {f : Fault}
    (h : crcRun init off len judge s = .fault f) : off.toNat + len.toNat ≤ s.caps.bufCap := by
  by_contra tooLong
  rw [crcRun_tooLong (State.runFits_eq_false_iff.mpr (Nat.not_le.mp tooLong))] at h
  cases h

theorem crcRun_stopsOnlyAsSpecified {init : Byte} {off len : BitVec 8} {judge : Byte → Code} :
    StopsOnlyAsSpecified s (crcRun init off len judge s) := by
  refine ⟨crcRun_stops.1, fun f hf => ?_⟩
  have fits := run_le_bufCap_of_crcRun_fault hf
  obtain ⟨j, hj, unwritten, hcause⟩ := crcRun_stops.2 f hf
  exact .inr ⟨off.toNat + j, by omega, hcause, unwritten⟩

theorem exec_stopsOnlyAsSpecified (i : Instr) (s : State) : StopsOnlyAsSpecified s (exec i s) := by
  rcases exec_next_or_crcRun i s with ⟨t, hnext⟩ | ⟨v, off, len, init, judge, -, hrun⟩
  · rw [hnext]
    exact stopsOnlyAsSpecified_next s t
  · rw [hrun]
    exact crcRun_stopsOnlyAsSpecified

theorem commandWrite_stopsOnlyAsSpecified (w : Word) (s : State) :
    StopsOnlyAsSpecified s (commandWrite w s) := by
  cases hb : s.busy with
  | true => rw [commandWrite_of_busy hb]; exact stopsOnlyAsSpecified_next s _
  | false =>
    cases hd : decode w with
    | error e => rw [commandWrite_of_decode_error hb hd]; exact stopsOnlyAsSpecified_next s _
    | ok i => rw [commandWrite_of_decode hb hd]; exact (exec_stopsOnlyAsSpecified i _).congr rfl rfl

theorem hostStmt_stopsOnlyAsSpecified (st : HostStmt) (s : State) :
    StopsOnlyAsSpecified s (hostStmt st s) := by
  cases st with
  | write width off v =>
    rw [hostStmt, hostWrite]
    split_ifs
    · exact commandWrite_stopsOnlyAsSpecified v s
    · exact stopsOnlyAsSpecified_next s _
    · exact stopsOnlyAsSpecified_next s _
    · exact stopsOnlyAsSpecified_hostAccessError s off width
  | read width off n =>
    rw [hostStmt, hostRead]
    split_ifs
    · exact stopsOnlyAsSpecified_next s _
    · exact stopsOnlyAsSpecified_next s _
    · exact stopsOnlyAsSpecified_hostAccessError s off width
  | goto _ | ifEq _ _ _ _ _ | ifNe _ _ _ _ _ | halt => exact stopsOnlyAsSpecified_next s _

theorem hostStep_stopsOnlyAsSpecified (s : State) : StopsOnlyAsSpecified s (hostStep s) := by
  cases hst : s.host.prog[s.host.pc]? with
  | none =>
    rw [hostStep, hst]
    exact stopsOnlyAsSpecified_next s s
  | some st =>
    rw [hostStep_of_statement hst]
    exact (hostStmt_stopsOnlyAsSpecified st _).congr rfl rfl

/-! ## The sequencer -/

/-- A coherent request has a current chunk inside BUF, so only an unwritten byte stops a micro-step. -/
theorem StateInv.microStep_stopsOnlyAsSpecified (h : StateInv s) (busy : s.busy = true) (a : BusAnswer) :
    StopsOnlyAsSpecified s (microStep a s) := by
  have hq := h.request busy
  refine ⟨microStep_stops.1, fun f hf => ?_⟩
  rcases microStep_stops.2 f hf with ⟨hnone, -⟩ | ⟨c, hc, hp, hstop⟩
  · obtain ⟨c, hc, -⟩ := hq.current
    rw [hnone] at hc; cases hc
  · obtain ⟨hi, -⟩ := (phaseFits_data hp).mp (hq.phaseFits hc)
    have inBuf := h.index_lt_bufCap busy hc hi
    rcases hstop with ⟨hout, -⟩ | ⟨-, unwritten, hcause⟩
    · exact absurd inBuf (Nat.not_lt.mpr hout)
    · exact .inr ⟨_, inBuf, hcause, unwritten⟩

theorem StateInv.sequencerStep_stopsOnlyAsSpecified (h : StateInv s) (busy : s.busy = true) :
    StopsOnlyAsSpecified s (sequencerStep s) :=
  (h.takeAnswer.microStep_stopsOnlyAsSpecified (s.takeAnswer_busy.trans busy) _).congr
    s.takeAnswer_caps s.takeAnswer_buf

/-! ## The machine -/

/-- Where both agents can move, the one whose turn it is does. -/
theorem step_eq_agentStep_turn (hp : s.powerOn = false) (hh : s.hostEnabled = true)
    (hs : s.sequencerEnabled = true) : step s = agentStep s.turn s.afterTurn := by
  simp [step, machineStep, hp, hh, hs]

theorem StateInv.agentStep_stopsOnlyAsSpecified (h : StateInv s) (busy : s.busy = true) (ag : Agent) :
    StopsOnlyAsSpecified s (agentStep ag s) := by
  cases ag with
  | host => exact hostStep_stopsOnlyAsSpecified s
  | sequencer => exact h.sequencerStep_stopsOnlyAsSpecified busy

/-- Settles O39, by who moves: the host and the sequencer each stop only as R237 says, and nothing else stops. -/
theorem stepStopsOnlyAsSpecified : Obligations.StepStopsOnlyAsSpecified := by
  intro s h
  change StopsOnlyAsSpecified s (step s)
  cases hp : s.powerOn with
  | true => rw [step_of_powerOn hp]; exact stopsOnlyAsSpecified_next s _
  | false =>
    cases hs : s.sequencerEnabled with
    | false =>
      cases hh : s.hostEnabled with
      | false => rw [step_of_none_enabled hp hh hs]; exact stopsOnlyAsSpecified_next s s
      | true => rw [step_of_host_enabled hp hh hs]; exact hostStep_stopsOnlyAsSpecified s
    | true =>
      obtain ⟨busy, -⟩ := sequencerEnabled_eq_true_iff.mp hs
      cases hh : s.hostEnabled with
      | false => rw [step_of_sequencer_enabled hp hh hs]; exact h.sequencerStep_stopsOnlyAsSpecified busy
      | true =>
        have hbusy : s.afterTurn.busy = true := by rw [State.afterTurn_frame]; exact busy
        have hbuf : s.afterTurn.buf = s.buf := by rw [State.afterTurn_frame]
        rw [step_eq_agentStep_turn hp hh hs]
        exact (h.afterTurn.agentStep_stopsOnlyAsSpecified hbusy s.turn).congr s.afterTurn_caps hbuf

end Sys2Proof.Machine
end

section
/-! PROOFS. Power-on reset (spec/70_reset_and_hazards.md R250, R252): a block just built is a block to which power-on
reset has been applied, so that the registers after the two are read once. -/

namespace Sys2Proof.Machine

variable {s : State}

/-- The default parameters are legal (00_scope.md R7). -/
theorem legal_defaultParams : Config.defaultParams.legal = true := by decide

/-- Settles O37, by the invariant of a reset block with legal parameters, which the default ones are. -/
theorem resetMeetsInvariant : Obligations.ResetMeetsInvariant :=
  ⟨fun _ => stateInv_resetWith, stateInv_resetWith legal_defaultParams⟩

/-- Power-on reset of a block just built changes nothing. -/
theorem powerOnReset_resetWith (p : Params) : (State.resetWith p).powerOnReset = State.resetWith p := rfl

/-- STATUS of an idle block with CODE Success and OVR = 0 shows PEC_IMPL only (10_state.md R22). -/
theorem statusWord_of_idle_success (hcode : s.code = .success) (hbusy : s.busy = false)
    (hovr : s.ovr = false) :
    s.statusWord = if s.caps.hasPec = true then 0x00010000#32 else 0#32 := by
  rw [State.statusWord, hcode, hbusy, hovr]
  cases s.caps.hasPec <;> rfl

/-- Settles O41: both states are a power-on reset, whose fields are R250's and whose registers read accordingly. -/
theorem powerOnResetValues : Obligations.PowerOnResetValues := by
  refine ⟨rfl, fun _ => rfl, fun s hp legal =>
    ⟨s.powerOnReset, step_of_powerOn hp, rfl, rfl, rfl, fun u hu => ?_⟩⟩
  obtain ⟨r, rfl, hcaps⟩ : ∃ r : State, u = r.powerOnReset ∧ r.caps = s.caps := by
    rcases List.mem_pair.mp hu with rfl | rfl
    · exact ⟨s, rfl, rfl⟩
    · exact ⟨State.resetWith s.caps, (powerOnReset_resetWith s.caps).symm, rfl⟩
  rw [← hcaps] at legal ⊢
  obtain ⟨-, -, capRegs⟩ := queryCapsSucceeds r.powerOnReset
  obtain ⟨htx, hrx, htotal, hbuf⟩ := capRegs legal
  exact ⟨rfl, rfl, rfl, rfl, rfl, rfl, rfl, rfl, rfl, rfl, Memory.read_nil,
    statusWord_of_idle_success rfl rfl rfl, htx, hrx, htotal, hbuf, fun _ hlo _ => readReg_reserved hlo⟩

end Sys2Proof.Machine
end
